-- ==== Sys2Proof/Word.lean ====
section
/-! DEFINITION. The word types of the block (rules R10, R11, R70, R72, R76, R77): fixed-width bit patterns. Their wrapping
addition and subtraction (rule R12) are those of `BitVec`, their readings `u32`, `u64` are `toNat` and `s32` is `toInt`. -/

namespace Sys2Proof

/-- A byte of a message (rules R84 to R86). -/
abbrev Byte := BitVec 8

/-- A word32 (rule R11): a Step, SubStep, Speed or DirectionDuration word, a tick or iteration count. -/
abbrev Word32 := BitVec 32

/-- A word64 (rules R8, R76): an Instant, a Duration, the idle timeout. -/
abbrev Word64 := BitVec 64

end Sys2Proof
end

