-- ==== Sys2Proof/Config.lean ====
section
/-! DEFINITION. The constants of rules R7 and R8. The block has no free value: every rule gives a definite result, and the
three OPEN parameters of spec/92 (CMD_LATENCY, BUS_BYTE_ORDER, BUS_BASE) enter no rule, so none of them stands here. -/

namespace Sys2Proof.Config

/-- LOOP_DURATION of rule R7: hardware clock cycles per iteration of the external loop. -/
def loopDuration : Nat := 13

/-- CYCLE_SHIFT of rule R7: one cycle is `2 ^ 8 = 256` sub-steps. -/
def cycleShift : Nat := 8

/-- SPEED_SHIFT of rule R7: a Speed counts sub-steps per `2 ^ 20` microseconds. -/
def speedShift : Nat := 20

/-- ANCHOR_CW of rule R7. -/
def anchorCw : Word32 := 0x80000000#32

/-- ANCHOR_CCW of rule R7. -/
def anchorCcw : Word32 := 0x00000000#32

/-- The first duration that does not fit the divisor of `Speed::new`: DIV_W of rule R8 is 32. -/
def divisorLimit : Int := 2 ^ 32

/-- The greatest cycle count of the decoder: ITER_W of rule R8 is 32. -/
def maxCycles : Nat := 2 ^ 32 - 1

/-- The least value of a Speed word: SPEED_W of rule R8 is 32 (rule R182). -/
def speedMin : Int := -(2 ^ 31)

/-- The greatest value of a Speed word: SPEED_W of rule R8 is 32 (rule R182). -/
def speedMax : Int := 2 ^ 31 - 1

end Sys2Proof.Config
end

