-- ==== Sys2Proof/Syntax.lean ====
section
/-! DEFINITION. The commands of the block (rule R90), one constructor per row of the opcode table, each with its operand
fields in the table's order and at their stated widths (rule R87). -/

namespace Sys2Proof

/-- A calibration record (rule R73): the sub-step offsets of phases 0 to 3. -/
structure Calibration where
  cal0 : Word32
  cal1 : Word32
  cal2 : Word32
  cal3 : Word32
deriving DecidableEq, Repr

/-- A Measurement record as a command carries it (rule R78). `dir` is the whole 8-bit Direction field: bit 0 the code,
bits 7:1 reserved (rules R74, R89). -/
structure MeasurementRecord where
  step : Word32
  dir : Byte
  stepInstant : Word64
  sampleInstant : Word64
deriving DecidableEq, Repr

/-- The raw input record (rule R79). -/
structure RawRecord where
  ddRaw : Word32
  step : Word32
  sampleInstant : Word64
  ticks : Word32
deriving DecidableEq, Repr

/-- The 24 commands of rule R90. -/
inductive Instr where
  /-- 0x01 NEW (R200) -/
  | new (cal : Calibration) (idleTimeout : Word64) (m : MeasurementRecord)
  /-- 0x02 NEW_RAW (R201) -/
  | newRaw (cal : Calibration) (idleTimeout : Word64) (raw : RawRecord)
  /-- 0x03 UPDATE (R203) -/
  | update (m : MeasurementRecord)
  /-- 0x04 UPDATE_RAW (R204) -/
  | updateRaw (raw : RawRecord)
  /-- 0x05 SPEED (R206) -/
  | speed
  /-- 0x06 POSITION (R207) -/
  | position
  /-- 0x07 STEPS (R208) -/
  | steps
  /-- 0x10 STEP_LOWER (R115) -/
  | stepLower (step : Word32) (cal : Calibration)
  /-- 0x11 STEP_UPPER (R116) -/
  | stepUpper (step : Word32) (cal : Calibration)
  /-- 0x12 STEP_RANGE (R117) -/
  | stepRange (step : Word32) (cal : Calibration)
  /-- 0x13 STEP_COMP (R118) -/
  | stepComp (a b : Word32)
  /-- 0x14 SS_ADD (R119) -/
  | ssAdd (a b : Word32)
  /-- 0x15 SS_SUB (R120) -/
  | ssSub (a b : Word32)
  /-- 0x20 DD_DECODE (R141) -/
  | ddDecode (ddRaw ticks : Word32)
  /-- 0x21 DD_ENCODE (R142) -/
  | ddEncode (dir : Byte) (iterations : Word32)
  /-- 0x22 DIR_INVERT (R143) -/
  | dirInvert (dir : Byte)
  /-- 0x30 SPEED_NEW (R189) -/
  | speedNew (delta : Word32) (duration : Word64)
  /-- 0x31 SPEED_MUL (R190) -/
  | speedMul (speed : Word32) (duration : Word64)
  /-- 0x40 M_TRANSITION (R166) -/
  | mTransition (m : MeasurementRecord) (cal : Calibration)
  /-- 0x41 M_CALC_SPEED (R167) -/
  | mCalcSpeed (prev curr : MeasurementRecord) (cal : Calibration)
  /-- 0x42 M_CALC_BOUNDS (R168) -/
  | mCalcBounds (prev curr : MeasurementRecord) (cal : Calibration)
  /-- 0x43 M_ESTIMATE (R169) -/
  | mEstimate (lastSpeed : Word32) (prev curr : MeasurementRecord) (cal : Calibration)
  /-- 0x44 M_FROM_RAW (R170) -/
  | mFromRaw (raw : RawRecord)
  /-- 0x45 M_TIME_SINCE (R171) -/
  | mTimeSince (m : MeasurementRecord)
deriving DecidableEq, Repr

end Sys2Proof
end

