-- ==== Sys2Proof/WellFormed.lean ====
section
/-! DEFINITION. Well-formed commands: the reserved bits `dir[7:1]` of every Direction field are 0 (rules R74, R89). Every
other field accepts every value as an encoding (rule R88); a zero `ticks` and a Measurement out of order are well-formed
commands that fault when they run (rules R234, R235). -/

namespace Sys2Proof

/-- Rule R89: the reserved bits 7:1 of a Direction field are 0. -/
def dirFieldWf (dir : Byte) : Bool := dir.toNat < 2

/-- A Measurement record whose Direction field is well-formed. -/
def MeasurementRecord.wf (m : MeasurementRecord) : Bool := dirFieldWf m.dir

/-- A command none of whose Direction fields has a reserved bit set (rule R89). -/
def Instr.wf (i : Instr) : Bool :=
  match i with
  | .new _ _ m => m.wf
  | .newRaw _ _ _ => true
  | .update m => m.wf
  | .updateRaw _ => true
  | .speed => true
  | .position => true
  | .steps => true
  | .stepLower _ _ => true
  | .stepUpper _ _ => true
  | .stepRange _ _ => true
  | .stepComp _ _ => true
  | .ssAdd _ _ => true
  | .ssSub _ _ => true
  | .ddDecode _ _ => true
  | .ddEncode dir _ => dirFieldWf dir
  | .dirInvert dir => dirFieldWf dir
  | .speedNew _ _ => true
  | .speedMul _ _ => true
  | .mTransition m _ => m.wf
  | .mCalcSpeed prev curr _ => prev.wf && curr.wf
  | .mCalcBounds prev curr _ => prev.wf && curr.wf
  | .mEstimate _ prev curr _ => prev.wf && curr.wf
  | .mFromRaw _ => true
  | .mTimeSince m => m.wf

end Sys2Proof
end

