-- ==== Sys2Proof/Decode.lean ====
section
/-! DEFINITION. Command messages (rules R84, R86, R90 to R93): the decoder, total on any bytes and rejecting by name, and
the encoder. A message is a list of bytes, byte 0 the opcode, every field most significant byte first. -/

namespace Sys2Proof

/-- Why a message is no command. Each of them is ILLEGAL_COMMAND when the message is run (rule R231). -/
inductive Rejection where
  /-- The message has no opcode byte: it is shorter than any command (rule R93). -/
  | emptyMessage
  /-- The opcode byte is not in the table (rule R92). -/
  | reservedOpcode (op : Byte)
  /-- The message is shorter or longer than its opcode's format (rules R91, R93). -/
  | wrongLength (op : Byte) (length : Nat)
deriving DecidableEq, Repr

/-- What the decoder makes of a message. -/
inductive Decoded where
  | instr (i : Instr)
  | rejected (why : Rejection)
deriving DecidableEq, Repr

/-! Reading fields, each from the front of the bytes (rule R86). -/

/-- An 8-bit field. -/
def read8 : List Byte → Option (Byte × List Byte)
  | a :: rest => some (a, rest)
  | [] => none

/-- A 32-bit field, most significant byte first (rule R86). -/
def read32 : List Byte → Option (Word32 × List Byte)
  | a :: b :: c :: d :: rest => some (a ++ b ++ c ++ d, rest)
  | _ => none

/-- A 64-bit field, most significant byte first (rule R86). -/
def read64 (bs : List Byte) : Option (Word64 × List Byte) := do
  let (hi, bs) ← read32 bs
  let (lo, bs) ← read32 bs
  pure (hi ++ lo, bs)

/-- A calibration record (rule R73). -/
def readCal (bs : List Byte) : Option (Calibration × List Byte) := do
  let (cal0, bs) ← read32 bs
  let (cal1, bs) ← read32 bs
  let (cal2, bs) ← read32 bs
  let (cal3, bs) ← read32 bs
  pure (⟨cal0, cal1, cal2, cal3⟩, bs)

/-- A Measurement record (rule R78). -/
def readMeasurement (bs : List Byte) : Option (MeasurementRecord × List Byte) := do
  let (step, bs) ← read32 bs
  let (dir, bs) ← read8 bs
  let (stepInstant, bs) ← read64 bs
  let (sampleInstant, bs) ← read64 bs
  pure (⟨step, dir, stepInstant, sampleInstant⟩, bs)

/-- A raw input record (rule R79). -/
def readRaw (bs : List Byte) : Option (RawRecord × List Byte) := do
  let (ddRaw, bs) ← read32 bs
  let (step, bs) ← read32 bs
  let (sampleInstant, bs) ← read64 bs
  let (ticks, bs) ← read32 bs
  pure (⟨ddRaw, step, sampleInstant, ticks⟩, bs)

/-! One reader per format of rule R91, given the command it builds. -/

/-- Format F0: no operand field. -/
def readF0 (mk : Instr) (bs : List Byte) : Option (Instr × List Byte) := some (mk, bs)

/-- Format FCM: calibration, idle timeout, Measurement. -/
def readFCM (mk : Calibration → Word64 → MeasurementRecord → Instr) (bs : List Byte) : Option (Instr × List Byte) := do
  let (cal, bs) ← readCal bs
  let (idle, bs) ← read64 bs
  let (m, bs) ← readMeasurement bs
  pure (mk cal idle m, bs)

/-- Format FCR: calibration, idle timeout, raw record. -/
def readFCR (mk : Calibration → Word64 → RawRecord → Instr) (bs : List Byte) : Option (Instr × List Byte) := do
  let (cal, bs) ← readCal bs
  let (idle, bs) ← read64 bs
  let (raw, bs) ← readRaw bs
  pure (mk cal idle raw, bs)

/-- Format FM: one Measurement. -/
def readFM (mk : MeasurementRecord → Instr) (bs : List Byte) : Option (Instr × List Byte) := do
  let (m, bs) ← readMeasurement bs
  pure (mk m, bs)

/-- Format FR: one raw record. -/
def readFR (mk : RawRecord → Instr) (bs : List Byte) : Option (Instr × List Byte) := do
  let (raw, bs) ← readRaw bs
  pure (mk raw, bs)

/-- Format FSC: a Step word and a calibration. -/
def readFSC (mk : Word32 → Calibration → Instr) (bs : List Byte) : Option (Instr × List Byte) := do
  let (step, bs) ← read32 bs
  let (cal, bs) ← readCal bs
  pure (mk step cal, bs)

/-- Formats FWW and FD: two 32-bit words. -/
def readFWW (mk : Word32 → Word32 → Instr) (bs : List Byte) : Option (Instr × List Byte) := do
  let (a, bs) ← read32 bs
  let (b, bs) ← read32 bs
  pure (mk a b, bs)

/-- Format FDI: a Direction field and an iteration count. -/
def readFDI (mk : Byte → Word32 → Instr) (bs : List Byte) : Option (Instr × List Byte) := do
  let (dir, bs) ← read8 bs
  let (iterations, bs) ← read32 bs
  pure (mk dir iterations, bs)

/-- Format FDIR: a Direction field. -/
def readFDIR (mk : Byte → Instr) (bs : List Byte) : Option (Instr × List Byte) := do
  let (dir, bs) ← read8 bs
  pure (mk dir, bs)

/-- Format FWD: a 32-bit word and a Duration. -/
def readFWD (mk : Word32 → Word64 → Instr) (bs : List Byte) : Option (Instr × List Byte) := do
  let (w, bs) ← read32 bs
  let (duration, bs) ← read64 bs
  pure (mk w duration, bs)

/-- Format FMC: a Measurement and a calibration. -/
def readFMC (mk : MeasurementRecord → Calibration → Instr) (bs : List Byte) : Option (Instr × List Byte) := do
  let (m, bs) ← readMeasurement bs
  let (cal, bs) ← readCal bs
  pure (mk m cal, bs)

/-- Format FMMC: two Measurements and a calibration. -/
def readFMMC (mk : MeasurementRecord → MeasurementRecord → Calibration → Instr) (bs : List Byte) :
    Option (Instr × List Byte) := do
  let (prev, bs) ← readMeasurement bs
  let (curr, bs) ← readMeasurement bs
  let (cal, bs) ← readCal bs
  pure (mk prev curr cal, bs)

/-- Format FSMMC: a Speed word, two Measurements and a calibration. -/
def readFSMMC (mk : Word32 → MeasurementRecord → MeasurementRecord → Calibration → Instr) (bs : List Byte) :
    Option (Instr × List Byte) := do
  let (lastSpeed, bs) ← read32 bs
  let (prev, bs) ← readMeasurement bs
  let (curr, bs) ← readMeasurement bs
  let (cal, bs) ← readCal bs
  pure (mk lastSpeed prev curr cal, bs)

/-- The opcode map (rule R90): the operand reader of an opcode, none for the reserved opcodes of rule R92. -/
def operandReader (op : Byte) : Option (List Byte → Option (Instr × List Byte)) :=
  match op.toNat with
  | 0x01 => some (readFCM .new)
  | 0x02 => some (readFCR .newRaw)
  | 0x03 => some (readFM .update)
  | 0x04 => some (readFR .updateRaw)
  | 0x05 => some (readF0 .speed)
  | 0x06 => some (readF0 .position)
  | 0x07 => some (readF0 .steps)
  | 0x10 => some (readFSC .stepLower)
  | 0x11 => some (readFSC .stepUpper)
  | 0x12 => some (readFSC .stepRange)
  | 0x13 => some (readFWW .stepComp)
  | 0x14 => some (readFWW .ssAdd)
  | 0x15 => some (readFWW .ssSub)
  | 0x20 => some (readFWW .ddDecode)
  | 0x21 => some (readFDI .ddEncode)
  | 0x22 => some (readFDIR .dirInvert)
  | 0x30 => some (readFWD .speedNew)
  | 0x31 => some (readFWD .speedMul)
  | 0x40 => some (readFMC .mTransition)
  | 0x41 => some (readFMMC .mCalcSpeed)
  | 0x42 => some (readFMMC .mCalcBounds)
  | 0x43 => some (readFSMMC .mEstimate)
  | 0x44 => some (readFR .mFromRaw)
  | 0x45 => some (readFM .mTimeSince)
  | _ => none

/-- The command of a message. The opcode alone fixes the fields and the length (rules R91, R94); a message with bytes
missing or left over is rejected (rule R93). Reserved `dir` bits are kept: the command that carries them faults when it
runs (rule R89). -/
def decode (msg : List Byte) : Decoded :=
  match msg with
  | [] => .rejected .emptyMessage
  | op :: body =>
    match operandReader op with
    | none => .rejected (.reservedOpcode op)
    | some read =>
      match read body with
      | some (i, []) => .instr i
      | _ => .rejected (.wrongLength op msg.length)

/-! The encoder. -/

/-- The bytes of a 32-bit field, most significant first (rule R86). -/
def bytes32 (w : Word32) : List Byte :=
  [w.extractLsb' 24 8, w.extractLsb' 16 8, w.extractLsb' 8 8, w.extractLsb' 0 8]

/-- The bytes of a 64-bit field, most significant first (rule R86). -/
def bytes64 (w : Word64) : List Byte := bytes32 (w.extractLsb' 32 32) ++ bytes32 (w.extractLsb' 0 32)

/-- The bytes of a calibration record (rule R73). -/
def bytesCal (c : Calibration) : List Byte := bytes32 c.cal0 ++ bytes32 c.cal1 ++ bytes32 c.cal2 ++ bytes32 c.cal3

/-- The bytes of a Measurement record (rule R78). -/
def bytesMeasurement (m : MeasurementRecord) : List Byte :=
  bytes32 m.step ++ m.dir :: (bytes64 m.stepInstant ++ bytes64 m.sampleInstant)

/-- The bytes of a raw input record (rule R79). -/
def bytesRaw (r : RawRecord) : List Byte :=
  bytes32 r.ddRaw ++ bytes32 r.step ++ bytes64 r.sampleInstant ++ bytes32 r.ticks

/-- The message of a command (rules R84, R86, R90, R91). -/
def encode (i : Instr) : List Byte :=
  match i with
  | .new cal idle m => 0x01#8 :: (bytesCal cal ++ bytes64 idle ++ bytesMeasurement m)
  | .newRaw cal idle raw => 0x02#8 :: (bytesCal cal ++ bytes64 idle ++ bytesRaw raw)
  | .update m => 0x03#8 :: bytesMeasurement m
  | .updateRaw raw => 0x04#8 :: bytesRaw raw
  | .speed => [0x05#8]
  | .position => [0x06#8]
  | .steps => [0x07#8]
  | .stepLower step cal => 0x10#8 :: (bytes32 step ++ bytesCal cal)
  | .stepUpper step cal => 0x11#8 :: (bytes32 step ++ bytesCal cal)
  | .stepRange step cal => 0x12#8 :: (bytes32 step ++ bytesCal cal)
  | .stepComp a b => 0x13#8 :: (bytes32 a ++ bytes32 b)
  | .ssAdd a b => 0x14#8 :: (bytes32 a ++ bytes32 b)
  | .ssSub a b => 0x15#8 :: (bytes32 a ++ bytes32 b)
  | .ddDecode ddRaw ticks => 0x20#8 :: (bytes32 ddRaw ++ bytes32 ticks)
  | .ddEncode dir iterations => 0x21#8 :: dir :: bytes32 iterations
  | .dirInvert dir => [0x22#8, dir]
  | .speedNew delta duration => 0x30#8 :: (bytes32 delta ++ bytes64 duration)
  | .speedMul speed duration => 0x31#8 :: (bytes32 speed ++ bytes64 duration)
  | .mTransition m cal => 0x40#8 :: (bytesMeasurement m ++ bytesCal cal)
  | .mCalcSpeed prev curr cal => 0x41#8 :: (bytesMeasurement prev ++ bytesMeasurement curr ++ bytesCal cal)
  | .mCalcBounds prev curr cal => 0x42#8 :: (bytesMeasurement prev ++ bytesMeasurement curr ++ bytesCal cal)
  | .mEstimate last prev curr cal =>
    0x43#8 :: (bytes32 last ++ bytesMeasurement prev ++ bytesMeasurement curr ++ bytesCal cal)
  | .mFromRaw raw => 0x44#8 :: bytesRaw raw
  | .mTimeSince m => 0x45#8 :: bytesMeasurement m

/-! Messages given as numbers, the way the opcode table numbers bits: byte `k` of the message is bits `8k + 7 .. 8k`. -/

/-- The length in bytes of a command, the opcode byte included, by its opcode (rule R91); none for a reserved opcode. -/
def commandLength (op : Byte) : Option Nat :=
  match op.toNat with
  | 0x01 => some 46
  | 0x02 => some 45
  | 0x03 => some 22
  | 0x04 => some 21
  | 0x05 => some 1
  | 0x06 => some 1
  | 0x07 => some 1
  | 0x10 => some 21
  | 0x11 => some 21
  | 0x12 => some 21
  | 0x13 => some 9
  | 0x14 => some 9
  | 0x15 => some 9
  | 0x20 => some 9
  | 0x21 => some 6
  | 0x22 => some 2
  | 0x30 => some 13
  | 0x31 => some 13
  | 0x40 => some 38
  | 0x41 => some 59
  | 0x42 => some 59
  | 0x43 => some 63
  | 0x44 => some 21
  | 0x45 => some 22
  | _ => none

/-- The first `n` bytes of a number, the least significant first. -/
def lowBytes : Nat → Nat → List Byte
  | 0, _ => []
  | n + 1, v => BitVec.ofNat 8 v :: lowBytes n (v / 256)

/-- The message whose bits the opcode table numbers `w`, of which `nbits` are given and every further one is 0. A message
has exactly the length its opcode fixes (rule R91), so the zero bits above `nbits` go up to that length; bits set above it
stay, and make the message too long. -/
def tableMessage (nbits w : Nat) : List Byte :=
  let v := w % 2 ^ nbits
  match commandLength (BitVec.ofNat 8 v) with
  | some n => lowBytes (if v < 2 ^ (8 * n) then n else (nbits + 7) / 8) v
  | none => lowBytes ((nbits + 7) / 8) v

/-- The command the decoder reads from the opcode table's number for a message. -/
def decodeTableWord (nbits w : Nat) : Option Instr :=
  match decode (tableMessage nbits w) with
  | .instr i => some i
  | .rejected _ => none

end Sys2Proof
end

