-- ==== Sys2Proof/Machine/State.lean ====
section
/-! DEFINITION. The state of the block (rule R20), the values its registers and its port carry, the reasons a step can stop,
and the state after reset (rules R36, R260). -/

namespace Sys2Proof.Machine

/-- A Direction (rules R74, R130). -/
inductive Direction where
  | clockwise
  | counterClockwise
deriving DecidableEq, Repr

/-- A Measurement (rule R150), the shape of the register `PREV` (rule R26). -/
structure Measurement where
  /-- Step word read from the hardware step counter. -/
  step : Word32
  /-- Direction of the most recent edge. -/
  direction : Direction
  /-- Instant of that edge. -/
  stepInstant : Word64
  /-- Instant at which the counters were sampled. -/
  sampleInstant : Word64
deriving DecidableEq, Repr

/-- The fault codes of rule R231. They are statuses a command ends with and the block goes on (rule R236), so raising one
is a next state of the machine, not an end of the run. -/
inductive FaultCode where
  /-- 0x01: reserved opcode, wrong length, or a reserved `dir` bit set. -/
  | illegalCommand
  /-- 0x02: an estimator command before construction. -/
  | notConstructed
  /-- 0x03: a second construction. -/
  | alreadyConstructed
  /-- 0x04: zero clock ticks per microsecond. -/
  | zeroClock
  /-- 0x05: a Measurement whose edge is later than its sample. -/
  | badMeasurement
deriving DecidableEq, Repr

/-- The result codes of `comp` (rules R80, R108). -/
inductive CompCode where
  | equal
  | clockwise
  | counterClockwise
  | antipodal
deriving DecidableEq, Repr

/-- The result fields of a response (rules R85, R90), by the field names of the opcode table. -/
inductive Result where
  /-- NEW, NEW_RAW, UPDATE, UPDATE_RAW: no result field. -/
  | empty
  | speed (speed : Word32)
  | position (position : Word32)
  | step (step : Word32)
  | substep (substep : Word32)
  /-- STEP_RANGE: the fields `start` and `end` (rule R82). -/
  | range (start stop : Word32)
  | code (code : CompCode)
  /-- DD_DECODE: the fields `dir` and `duration_us`. -/
  | dirDuration (dir : Direction) (durationUs : Word32)
  | ddRaw (ddRaw : Word32)
  | dir (dir : Direction)
  | delta (delta : Word32)
  /-- M_CALC_BOUNDS: the fields `lo` and `hi` (rule R81). -/
  | bounds (lo hi : Word32)
  | measurement (m : Measurement)
  | duration (duration : Word64)
deriving DecidableEq, Repr

/-- A response (rules R56, R85): status OK with result fields, or a fault status and nothing else. -/
inductive Response where
  | ok (result : Result)
  | fault (code : FaultCode)
deriving DecidableEq, Repr

/-- What the host does to the block: it presents a command message at the port (rule R56) or resets the block
(rule R260). -/
inductive HostInput where
  | command (message : List Byte)
  | reset
deriving DecidableEq, Repr

/-- The state: the nine registers of rule R20, then the model's own two fields for the two sides of the command port. -/
structure State where
  /-- `CAL[0..3]` (R23). -/
  cal : Calibration
  /-- `IDLE_TIMEOUT` in microseconds (R24). -/
  idleTimeout : Word64
  /-- `LAST_KNOWN_SPEED` (R25). -/
  lastKnownSpeed : Word32
  /-- `PREV.STEP`, `PREV.DIR`, `PREV.STEP_INSTANT`, `PREV.SAMPLE_INSTANT` (R26). -/
  prev : Measurement
  /-- `CONSTRUCTED` (R27). -/
  constructed : Bool
  /-- `FAULTS` (R28). -/
  faults : BitVec 8
  /-- The model's own: what the host will do next, in order (R56, R59; log entry 1). -/
  inputs : List HostInput
  /-- The model's own: the response to the latest command, none before the first (R56; log entry 2). -/
  response : Option Response
deriving DecidableEq, Repr

/-- Reasons a step stops the machine. There is none: every command ends with a response and the block then accepts the next
one (rules R64, R218, R238), and the five faults of rule R231 are next states (rule R236). Safe: with no constructor nothing
can be proved from a stop. -/
inductive Fault where
deriving DecidableEq, Repr

/-- Reasons a step has no meaning. -/
inductive Refusal where
  /-- An instruction without a meaning, raised by an arm of `exec` only. Every arm has its meaning, so nothing raises it.
  Safe: a refused step proves nothing about the hardware. -/
  | notModelled (mnemonic : String)
deriving DecidableEq, Repr

/-- The block right after reset (rules R36, R260): `CONSTRUCTED` and `FAULTS` are 0, nothing is pending and nothing has been
answered. The registers the spec leaves unspecified hold 0 (DESIGN CHOICE, unsafe, log entry 3); no command reads them before
construction writes them. -/
def State.reset : State where
  cal := ⟨0#32, 0#32, 0#32, 0#32⟩
  idleTimeout := 0#64
  lastKnownSpeed := 0#32
  prev := ⟨0#32, .clockwise, 0#64, 0#64⟩
  constructed := false
  faults := 0#8
  inputs := []
  response := none

end Sys2Proof.Machine
end

