-- ==== Sys2Proof/Machine/Arith.lean ====
section
/-! DEFINITION. The arithmetic primitives of rule R13, on mathematical integers. -/

namespace Sys2Proof.Machine

/-- `sat_mul_u32` of rule R13. -/
def satMulU32 (a b : Nat) : Nat := min (a * b) Config.maxCycles

/-- `sat_sub_u64` of rule R13. -/
def satSubU64 (a b : Nat) : Nat := if b ≤ a then a - b else 0

/-- `trunc_div` of rule R13: the quotient by a positive divisor, rounded toward zero. -/
def truncDiv (n d : Int) : Int := if 0 ≤ n then n / d else -((-n) / d)

/-- `clamp_s32` of rule R13. -/
def clampS32 (n : Int) : Int := min (max n Config.speedMin) Config.speedMax

end Sys2Proof.Machine
end

