-- ==== Sys2Proof/Machine/Flags.lean ====
section
/-! DEFINITION. Status bits. The block has no condition codes (rule R31): its only flags are `CONSTRUCTED`, the sticky bits of
`FAULTS` (rule R28), and the regime, a predicate of the speed (rule R30). -/

namespace Sys2Proof.Machine

/-- The number of a fault code (rule R231): its status byte, and its bit in `FAULTS`. -/
def faultNumber (c : FaultCode) : Nat :=
  match c with
  | .illegalCommand => 1
  | .notConstructed => 2
  | .alreadyConstructed => 3
  | .zeroClock => 4
  | .badMeasurement => 5

/-- The bit of `FAULTS` that a fault code sets (rule R28). -/
def faultBit (c : FaultCode) : BitVec 8 := 1#8 <<< faultNumber c

/-- Has a command ended with this code since reset? -/
def faultRecorded (c : FaultCode) (s : State) : Bool := s.faults.getLsbD (faultNumber c)

/-- The Stopped regime (rules R30, R215). -/
def stoppedRegime (s : State) : Bool := s.constructed && s.lastKnownSpeed == 0#32

/-- The Moving regime (rules R30, R215). -/
def movingRegime (s : State) : Bool := s.constructed && s.lastKnownSpeed != 0#32

end Sys2Proof.Machine
end

