-- ==== Sys2Proof/Machine/Operands.lean ====
section
/-! DEFINITION. Operand and result fields: how a command's fields are read (rules R74, R78, R87, R89) and how a response is
laid out as bytes (rules R80, R83, R85, R86). -/

namespace Sys2Proof.Machine

/-- The Direction of a Direction field: bit 0, 0 Clockwise and 1 CounterClockwise (rule R74). -/
def fieldDirection (dir : Byte) : Direction := if dir.getLsbD 0 then .counterClockwise else .clockwise

/-- Is a reserved bit `dir[7:1]` of a Direction field set? (rule R89) -/
def reservedDir (dir : Byte) : Bool := dir.extractLsb' 1 7 != 0#7

/-- The Direction field of a result, bits 7:1 zero (rules R74, R89). -/
def directionField (d : Direction) : Byte :=
  match d with
  | .clockwise => 0#8
  | .counterClockwise => 1#8

/-- The Measurement of an operand record, its Direction taken from bit 0 of the field (rules R74, R78). -/
def fieldMeasurement (m : MeasurementRecord) : Measurement :=
  ⟨m.step, fieldDirection m.dir, m.stepInstant, m.sampleInstant⟩

/-- The record that carries a Measurement in a message (rule R78). -/
def measurementField (m : Measurement) : MeasurementRecord :=
  ⟨m.step, directionField m.direction, m.stepInstant, m.sampleInstant⟩

/-- Validity of a Measurement operand (rule R151), both Instants read as u64. -/
def validRecord (m : MeasurementRecord) : Bool := m.stepInstant.toNat ≤ m.sampleInstant.toNat

/-- The 8-bit field of a `comp` result (rule R80). -/
def compField (c : CompCode) : Byte :=
  match c with
  | .equal => 0x00#8
  | .clockwise => 0x01#8
  | .counterClockwise => 0x02#8
  | .antipodal => 0x03#8

/-- The result fields of a response as bytes, in the order of rule R90. -/
def resultBytes (r : Result) : List Byte :=
  match r with
  | .empty => []
  | .speed w => bytes32 w
  | .position w => bytes32 w
  | .step w => bytes32 w
  | .substep w => bytes32 w
  | .range start stop => bytes32 start ++ bytes32 stop
  | .code c => [compField c]
  | .dirDuration d us => directionField d :: bytes32 us
  | .ddRaw w => bytes32 w
  | .dir d => [directionField d]
  | .delta w => bytes32 w
  | .bounds lo hi => bytes32 lo ++ bytes32 hi
  | .measurement m => bytesMeasurement (measurementField m)
  | .duration w => bytes64 w

/-- The response message (rules R83, R85, R86): the status byte, then, only when the status is OK, the result fields. -/
def responseBytes (r : Response) : List Byte :=
  match r with
  | .ok result => 0x00#8 :: resultBytes result
  | .fault c => [BitVec.ofNat 8 (faultNumber c)]

end Sys2Proof.Machine
end

