-- ==== Sys2Proof/Machine/Ops.lean ====
section
/-! DEFINITION. The named operations on the state. The block has no memory and no numbered registers (rules R21, R50), so
these are all the ways a command changes anything: it answers, it takes a fault, it constructs, it replaces the estimate. -/

namespace Sys2Proof.Machine

/-- End a command with status OK and these result fields (rule R85). -/
def answer (r : Result) (s : State) : State := { s with response := some (.ok r) }

/-- FAULT ENTRY (rule R236), the one way an exception is taken: the sticky `FAULTS` bit of the code is set, the response is
the status alone, and nothing else changes; there is no saved program counter, vector, mode or handler. There is no return
from it either (rule R238): the fault is complete when its response is given. -/
def takeFault (c : FaultCode) (s : State) : State :=
  { s with faults := s.faults ||| faultBit c, response := some (.fault c) }

/-- A command that raises fault `c` (rule R236). -/
def raise (c : FaultCode) (s : State) : Host.Outcome State Fault Refusal := .next (takeFault c s)

/-- A command that completes with these result fields. -/
def reply (r : Result) (s : State) : Host.Outcome State Fault Refusal := .next (answer r s)

/-- The writes of a construction (rule R200): the configuration is latched, the speed is `stopped()`, the initial
Measurement is kept and `CONSTRUCTED` is set. -/
def construct (cal : Calibration) (idleTimeout : Word64) (m : Measurement) (s : State) : State :=
  { s with cal := cal, idleTimeout := idleTimeout, lastKnownSpeed := 0#32, prev := m, constructed := true }

/-- The writes of an update (rule R203): speed and Measurement change together (rule R53). -/
def replaceEstimate (speed : Word32) (m : Measurement) (s : State) : State :=
  { s with lastKnownSpeed := speed, prev := m }

/-- The reset event (rule R260): every register takes its reset value and the response is withdrawn; the host's later inputs
are the host's own and stay. -/
def resetEvent (s : State) : State := { State.reset with inputs := s.inputs }

end Sys2Proof.Machine
end

