-- ==== Sys2Proof/Machine/DirectionDuration.lean ====
section
/-! DEFINITION. Unit 2, Direction and the direction/duration decoder (spec/41): rules R130 to R139 and the commands
DD_DECODE, DD_ENCODE, DIR_INVERT. -/

namespace Sys2Proof.Machine

/-- `invert` (rule R131). -/
def invert (d : Direction) : Direction :=
  match d with
  | .clockwise => .counterClockwise
  | .counterClockwise => .clockwise

/-- `anchor` (rule R132). -/
def anchor (d : Direction) : Word32 :=
  match d with
  | .clockwise => Config.anchorCw
  | .counterClockwise => Config.anchorCcw

/-- Construction of a packed word, the inverse of decoding (rule R133). -/
def ddEncode (d : Direction) (iterations : Word32) : Word32 := anchor d - iterations

/-- Step 1 of `decode` (rule R135): the direction is the sign of the packed word. -/
def ddDirection (raw : Word32) : Direction := if raw.toInt < 0 then .counterClockwise else .clockwise

/-- Step 2 of `decode` (rule R135): the unsigned iteration count (conflict C11). The anchor words are not special
(rule R137, conflict C3). -/
def ddIterations (raw : Word32) : Nat := (anchor (ddDirection raw) - raw).toNat

/-- Steps 3 and 4 of `decode` (rule R135): saturating cycles, then floor division. Every command that decodes has refused
`ticks = 0` before (rule R234). -/
def ddDurationUs (raw ticks : Word32) : Word32 :=
  BitVec.ofNat 32 (satMulU32 (ddIterations raw) Config.loopDuration / ticks.toNat)

/-- DD_DECODE (rule R141). -/
def execDdDecode (ddRaw ticks : Word32) (s : State) : Host.Outcome State Fault Refusal :=
  if ticks.toNat = 0 then raise .zeroClock s
  else reply (.dirDuration (ddDirection ddRaw) (ddDurationUs ddRaw ticks)) s

/-- DD_ENCODE (rule R142). -/
def execDdEncode (dir : Byte) (iterations : Word32) (s : State) : Host.Outcome State Fault Refusal :=
  if reservedDir dir then raise .illegalCommand s
  else reply (.ddRaw (ddEncode (fieldDirection dir) iterations)) s

/-- DIR_INVERT (rule R143). -/
def execDirInvert (dir : Byte) (s : State) : Host.Outcome State Fault Refusal :=
  if reservedDir dir then raise .illegalCommand s
  else reply (.dir (invert (fieldDirection dir))) s

end Sys2Proof.Machine
end

