-- ==== Sys2Proof/Machine/Speed.lean ====
section
/-! DEFINITION. Unit 3, the Speed fixed-point type (spec/43): rules R180 to R188 and the commands SPEED_NEW, SPEED_MUL. -/

namespace Sys2Proof.Machine

/-- `stopped()` (rule R182). -/
def speedStopped : Word32 := 0x00000000#32

/-- `min()` (rule R182). -/
def speedLeast : Word32 := 0x80000000#32

/-- `max()` (rule R182). -/
def speedGreatest : Word32 := 0x7FFFFFFF#32

/-- `Speed::new` (rule R184), of a SubStep word read signed and a duration given as an integer. -/
def makeSpeed (delta : Word32) (duration : Int) : Word32 :=
  if duration < 0 ∨ Config.divisorLimit ≤ duration then speedStopped
  else if duration = 0 then
    if 0 < delta.toInt then speedGreatest
    else if delta.toInt < 0 then speedLeast
    else speedStopped
  else BitVec.ofInt 32 (clampS32 (truncDiv (delta.toInt * 2 ^ Config.speedShift) duration))

/-- `speed * duration` (rule R187): bits 51:20 of the 64-bit wrapping product of the sign-extended speed. -/
def mulSpeed (speed : Word32) (duration : Word64) : Word32 :=
  (BitVec.ofInt 64 (speed.toInt * (duration.toNat : Int))).extractLsb' Config.speedShift 32

/-- SPEED_NEW (rule R189). -/
def execSpeedNew (delta : Word32) (duration : Word64) (s : State) : Host.Outcome State Fault Refusal :=
  reply (.speed (makeSpeed delta (duration.toNat : Int))) s

/-- SPEED_MUL (rule R190). -/
def execSpeedMul (speed : Word32) (duration : Word64) (s : State) : Host.Outcome State Fault Refusal :=
  reply (.delta (mulSpeed speed duration)) s

end Sys2Proof.Machine
end

