-- ==== Sys2Proof/Machine/StepSubstep.lean ====
section
/-! DEFINITION. Unit 1, Step and SubStep arithmetic (spec/40): the functions of rules R100 to R113 and the commands
STEP_LOWER, STEP_UPPER, STEP_RANGE, STEP_COMP, SS_ADD, SS_SUB. -/

namespace Sys2Proof.Machine

/-- `Step::new` and `SubStep::new` (rules R100, R109). -/
def wordOfInt (i : Int) : Word32 := BitVec.ofInt 32 i

/-- `raw()` (rule R101) and the signed reading of a SubStep (rule R109). -/
def rawOfWord (w : Word32) : Int := w.toInt

/-- The phase of a Step (rule R102): bits 1:0, so that it is non-negative for a negative count (conflict C2). -/
def phase (step : Word32) : BitVec 2 := step.extractLsb' 0 2

/-- The cycle number of a Step (rule R103): a logical shift (conflict C2). -/
def cycle (step : Word32) : Word32 := step >>> 2

/-- `cal[p]`, the calibration entry of a phase (rule R73). -/
def calEntry (cal : Calibration) (p : BitVec 2) : Word32 :=
  match p.toNat with
  | 0 => cal.cal0
  | 1 => cal.cal1
  | 2 => cal.cal2
  | _ => cal.cal3

/-- `lower_bound` (rule R104): the shift applies to the cycle number alone, the addition comes after it (conflict C1). -/
def lowerBound (step : Word32) (cal : Calibration) : Word32 :=
  (cycle step <<< Config.cycleShift) + calEntry cal (phase step)

/-- `upper_bound` (rule R105). -/
def upperBound (step : Word32) (cal : Calibration) : Word32 := lowerBound (step + 1#32) cal

/-- `comp(a, b)` (rule R108): the shorter way from `a` to `b` on the 32-bit circle. -/
def comp (a b : Word32) : CompCode :=
  let d := (b - a).toNat
  if d = 0 then .equal
  else if d < 2 ^ 31 then .clockwise
  else if d = 2 ^ 31 then .antipodal
  else .counterClockwise

/-- SubStep `add` (rule R110). -/
def substepAdd (a b : Word32) : Word32 := a + b

/-- SubStep `sub` (rule R111). -/
def substepSub (a b : Word32) : Word32 := a - b

/-- The width of phase `p` in a calibration, read signed (rule R113): up to the next entry, and for phase 3 up to the first
entry of the next cycle. -/
def calWidth (cal : Calibration) (p : BitVec 2) : Int :=
  match p.toNat with
  | 0 => (cal.cal1 - cal.cal0).toInt
  | 1 => (cal.cal2 - cal.cal1).toInt
  | 2 => (cal.cal3 - cal.cal2).toInt
  | _ => ((cal.cal0 + 256#32) - cal.cal3).toInt

/-- A well-formed calibration (rule R113). The block does not check it (rule R276). -/
abbrev CalWellFormed (cal : Calibration) : Prop :=
  0 ≤ calWidth cal 0#2 ∧ 0 ≤ calWidth cal 1#2 ∧ 0 ≤ calWidth cal 2#2 ∧ 0 ≤ calWidth cal 3#2

/-- STEP_LOWER (rule R115). -/
def execStepLower (step : Word32) (cal : Calibration) (s : State) : Host.Outcome State Fault Refusal :=
  reply (.substep (lowerBound step cal)) s

/-- STEP_UPPER (rule R116). -/
def execStepUpper (step : Word32) (cal : Calibration) (s : State) : Host.Outcome State Fault Refusal :=
  reply (.substep (upperBound step cal)) s

/-- STEP_RANGE (rules R106, R117). -/
def execStepRange (step : Word32) (cal : Calibration) (s : State) : Host.Outcome State Fault Refusal :=
  reply (.range (lowerBound step cal) (upperBound step cal)) s

/-- STEP_COMP (rule R118). -/
def execStepComp (a b : Word32) (s : State) : Host.Outcome State Fault Refusal := reply (.code (comp a b)) s

/-- SS_ADD (rule R119). -/
def execSsAdd (a b : Word32) (s : State) : Host.Outcome State Fault Refusal := reply (.substep (substepAdd a b)) s

/-- SS_SUB (rule R120). -/
def execSsSub (a b : Word32) (s : State) : Host.Outcome State Fault Refusal := reply (.substep (substepSub a b)) s

end Sys2Proof.Machine
end

