-- ==== Sys2Proof/Machine/Measure.lean ====
section
/-! DEFINITION. Unit 4, Measurement and bounded speed estimation (spec/42): rules R150 to R165 and the commands M_TRANSITION,
M_CALC_SPEED, M_CALC_BOUNDS, M_ESTIMATE, M_FROM_RAW, M_TIME_SINCE with the order of checks of rule R172. -/

namespace Sys2Proof.Machine

/-- `from_raw` (rule R153): the edge instant is the sample instant less the decoded time, 0 where that is negative. -/
def fromRaw (r : RawRecord) : Measurement where
  step := r.step
  direction := ddDirection r.ddRaw
  stepInstant := BitVec.ofNat 64 (satSubU64 r.sampleInstant.toNat (ddDurationUs r.ddRaw r.ticks).toNat)
  sampleInstant := r.sampleInstant

/-- `time_since_transition` (rule R154), exact for a valid Measurement. -/
def timeSince (m : Measurement) : Word64 := m.sampleInstant - m.stepInstant

/-- `transition` (rule R155). -/
def transition (m : Measurement) (cal : Calibration) : Word32 :=
  match m.direction with
  | .clockwise => lowerBound m.step cal
  | .counterClockwise => upperBound m.step cal

/-- `calculate_speed` (rule R157): exact speed between two edges; `stopped()` where the newer edge is stamped earlier. -/
def calculateSpeed (prev curr : Measurement) (cal : Calibration) : Word32 :=
  let delta := substepSub (transition curr cal) (transition prev cal)
  let dt : Int := (curr.stepInstant.toNat : Int) - (prev.stepInstant.toNat : Int)
  if dt < 0 then speedStopped else makeSpeed delta dt

/-- The timing window an estimate uses, with its duration in microseconds (rule R158). -/
inductive Window where
  /-- From the last poll to the most recent edge. -/
  | pollToEdge (duration : Nat)
  /-- From the most recent edge to now. -/
  | edgeToNow (duration : Nat)
deriving DecidableEq, Repr

/-- Window selection (rules R158, R159): window A exists only when the edge came after the previous poll, and wins only when
strictly larger than window B. -/
def selectWindow (prev curr : Measurement) : Window :=
  let b := (timeSince curr).toNat
  let a := curr.stepInstant.toNat - prev.sampleInstant.toNat
  if prev.sampleInstant.toNat < curr.stepInstant.toNat ∧ b < a then .pollToEdge a else .edgeToNow b

/-- `calculate_speed_bounds` (rules R160 to R162): the pair `(lo, hi)`. Window A goes with the step of the previous poll,
window B with the current step. -/
def speedBounds (prev curr : Measurement) (cal : Calibration) : Word32 × Word32 :=
  let t := transition curr cal
  match selectWindow prev curr with
  | .pollToEdge a =>
    (makeSpeed (substepSub t (upperBound prev.step cal)) (a : Int),
      makeSpeed (substepSub t (lowerBound prev.step cal)) (a : Int))
  | .edgeToNow b =>
    (makeSpeed (substepSub (lowerBound curr.step cal) t) (b : Int),
      makeSpeed (substepSub (upperBound curr.step cal) t) (b : Int))

/-- `clamp` on Speeds read signed (rule R163): the upper test first, the lower test last. -/
def clampSpeed (v lo hi : Word32) : Word32 :=
  let v := if hi.toInt < v.toInt then hi else v
  if v.toInt < lo.toInt then lo else v

/-- `estimate_speed` (rule R164): the exact speed is not clamped (conflicts C4, C5). -/
def estimateSpeed (last : Word32) (prev curr : Measurement) (cal : Calibration) : Word32 :=
  if prev.step ≠ curr.step then calculateSpeed prev curr cal
  else clampSpeed last (speedBounds prev curr cal).1 (speedBounds prev curr cal).2

/-- M_TRANSITION (rules R166, R172). -/
def execMTransition (m : MeasurementRecord) (cal : Calibration) (s : State) : Host.Outcome State Fault Refusal :=
  if reservedDir m.dir then raise .illegalCommand s
  else if !validRecord m then raise .badMeasurement s
  else reply (.substep (transition (fieldMeasurement m) cal)) s

/-- M_CALC_SPEED (rules R167, R172). -/
def execMCalcSpeed (prev curr : MeasurementRecord) (cal : Calibration) (s : State) :
    Host.Outcome State Fault Refusal :=
  if reservedDir prev.dir || reservedDir curr.dir then raise .illegalCommand s
  else if !validRecord prev || !validRecord curr then raise .badMeasurement s
  else reply (.speed (calculateSpeed (fieldMeasurement prev) (fieldMeasurement curr) cal)) s

/-- M_CALC_BOUNDS (rules R168, R172). -/
def execMCalcBounds (prev curr : MeasurementRecord) (cal : Calibration) (s : State) :
    Host.Outcome State Fault Refusal :=
  if reservedDir prev.dir || reservedDir curr.dir then raise .illegalCommand s
  else if !validRecord prev || !validRecord curr then raise .badMeasurement s
  else
    let bounds := speedBounds (fieldMeasurement prev) (fieldMeasurement curr) cal
    reply (.bounds bounds.1 bounds.2) s

/-- M_ESTIMATE (rules R169, R172). -/
def execMEstimate (lastSpeed : Word32) (prev curr : MeasurementRecord) (cal : Calibration) (s : State) :
    Host.Outcome State Fault Refusal :=
  if reservedDir prev.dir || reservedDir curr.dir then raise .illegalCommand s
  else if !validRecord prev || !validRecord curr then raise .badMeasurement s
  else reply (.speed (estimateSpeed lastSpeed (fieldMeasurement prev) (fieldMeasurement curr) cal)) s

/-- M_FROM_RAW (rules R170, R172). -/
def execMFromRaw (raw : RawRecord) (s : State) : Host.Outcome State Fault Refusal :=
  if raw.ticks.toNat = 0 then raise .zeroClock s
  else reply (.measurement (fromRaw raw)) s

/-- M_TIME_SINCE (rules R171, R172). -/
def execMTimeSince (m : MeasurementRecord) (s : State) : Host.Outcome State Fault Refusal :=
  if reservedDir m.dir then raise .illegalCommand s
  else if !validRecord m then raise .badMeasurement s
  else reply (.duration (timeSince (fieldMeasurement m))) s

end Sys2Proof.Machine
end

