-- ==== Sys2Proof/Machine/Estimator.lean ====
section
/-! DEFINITION. Unit 5, the EncoderState machine (spec/44): the commands NEW, NEW_RAW, UPDATE, UPDATE_RAW, SPEED, POSITION,
STEPS, with their faults in the order of rule R237. -/

namespace Sys2Proof.Machine

/-- The speed an update computes (rule R203): `stopped()` once the last edge is at least the idle timeout old, else the
estimate from the old speed and the old Measurement. -/
def updatedSpeed (m : Measurement) (s : State) : Word32 :=
  if s.idleTimeout.toNat ≤ (timeSince m).toNat then speedStopped
  else estimateSpeed s.lastKnownSpeed s.prev m s.cal

/-- The update of rule R203 by a Measurement whose checks have passed. -/
def updateWith (m : Measurement) (s : State) : State := replaceEstimate (updatedSpeed m s) m s

/-- The position estimate (rule R207), for the instant of the latest sample; it is not clamped (conflict C8). -/
def positionOf (s : State) : Word32 :=
  substepAdd (transition s.prev s.cal) (mulSpeed s.lastKnownSpeed (timeSince s.prev))

/-- NEW (rule R200). -/
def execNew (cal : Calibration) (idleTimeout : Word64) (m : MeasurementRecord) (s : State) :
    Host.Outcome State Fault Refusal :=
  if reservedDir m.dir then raise .illegalCommand s
  else if s.constructed then raise .alreadyConstructed s
  else if !validRecord m then raise .badMeasurement s
  else reply .empty (construct cal idleTimeout (fieldMeasurement m) s)

/-- NEW_RAW (rule R201). -/
def execNewRaw (cal : Calibration) (idleTimeout : Word64) (raw : RawRecord) (s : State) :
    Host.Outcome State Fault Refusal :=
  if s.constructed then raise .alreadyConstructed s
  else if raw.ticks.toNat = 0 then raise .zeroClock s
  else reply .empty (construct cal idleTimeout (fromRaw raw) s)

/-- UPDATE (rule R203). -/
def execUpdate (m : MeasurementRecord) (s : State) : Host.Outcome State Fault Refusal :=
  if reservedDir m.dir then raise .illegalCommand s
  else if !s.constructed then raise .notConstructed s
  else if !validRecord m then raise .badMeasurement s
  else reply .empty (updateWith (fieldMeasurement m) s)

/-- UPDATE_RAW (rule R204). -/
def execUpdateRaw (raw : RawRecord) (s : State) : Host.Outcome State Fault Refusal :=
  if !s.constructed then raise .notConstructed s
  else if raw.ticks.toNat = 0 then raise .zeroClock s
  else reply .empty (updateWith (fromRaw raw) s)

/-- SPEED (rule R206). -/
def execSpeed (s : State) : Host.Outcome State Fault Refusal :=
  if !s.constructed then raise .notConstructed s
  else reply (.speed s.lastKnownSpeed) s

/-- POSITION (rule R207). -/
def execPosition (s : State) : Host.Outcome State Fault Refusal :=
  if !s.constructed then raise .notConstructed s
  else reply (.position (positionOf s)) s

/-- STEPS (rule R208). -/
def execSteps (s : State) : Host.Outcome State Fault Refusal :=
  if !s.constructed then raise .notConstructed s
  else reply (.step s.prev.step) s

end Sys2Proof.Machine
end

