-- ==== Sys2Proof/Machine/Dispatch.lean ====
section
/-! DEFINITION. The dispatch of a command to its meaning, one arm per constructor of Instr (rule R90). -/

namespace Sys2Proof.Machine

def exec (i : Instr) (s : State) : Host.Outcome State Fault Refusal :=
  match i with
  | .new cal idle m => Sys2Proof.Machine.execNew cal idle m s
  | .newRaw cal idle raw => Sys2Proof.Machine.execNewRaw cal idle raw s
  | .update m => Sys2Proof.Machine.execUpdate m s
  | .updateRaw raw => Sys2Proof.Machine.execUpdateRaw raw s
  | .speed => Sys2Proof.Machine.execSpeed s
  | .position => Sys2Proof.Machine.execPosition s
  | .steps => Sys2Proof.Machine.execSteps s
  | .stepLower step cal => Sys2Proof.Machine.execStepLower step cal s
  | .stepUpper step cal => Sys2Proof.Machine.execStepUpper step cal s
  | .stepRange step cal => Sys2Proof.Machine.execStepRange step cal s
  | .stepComp a b => Sys2Proof.Machine.execStepComp a b s
  | .ssAdd a b => Sys2Proof.Machine.execSsAdd a b s
  | .ssSub a b => Sys2Proof.Machine.execSsSub a b s
  | .ddDecode ddRaw ticks => Sys2Proof.Machine.execDdDecode ddRaw ticks s
  | .ddEncode dir iterations => Sys2Proof.Machine.execDdEncode dir iterations s
  | .dirInvert dir => Sys2Proof.Machine.execDirInvert dir s
  | .speedNew delta duration => Sys2Proof.Machine.execSpeedNew delta duration s
  | .speedMul speed duration => Sys2Proof.Machine.execSpeedMul speed duration s
  | .mTransition m cal => Sys2Proof.Machine.execMTransition m cal s
  | .mCalcSpeed prev curr cal => Sys2Proof.Machine.execMCalcSpeed prev curr cal s
  | .mCalcBounds prev curr cal => Sys2Proof.Machine.execMCalcBounds prev curr cal s
  | .mEstimate last prev curr cal => Sys2Proof.Machine.execMEstimate last prev curr cal s
  | .mFromRaw raw => Sys2Proof.Machine.execMFromRaw raw s
  | .mTimeSince m => Sys2Proof.Machine.execMTimeSince m s

end Sys2Proof.Machine
end

