-- ==== Sys2Proof/Machine/Port.lean ====
section
/-! DEFINITION. The command port (rules R56, R59): what the next host input asks for, and what a message that is no command
does (rules R92, R93). -/

namespace Sys2Proof.Machine

/-- What the port presents to the block. -/
inductive PortEvent where
  /-- Nothing: the block waits (rule R261). -/
  | idle
  /-- The reset event (rule R260). -/
  | reset
  /-- A message that decodes to a command. -/
  | run (i : Instr)
  /-- A message that is no command. -/
  | malformed (why : Rejection)
deriving DecidableEq, Repr

/-- The next event at the port. It is the first input the host has pending, so every command is performed after every earlier
one (rules R59, R61); there is no fence among the events, nor an opcode for one. -/
def portEvent (s : State) : PortEvent :=
  match s.inputs with
  | [] => .idle
  | .reset :: _ => .reset
  | .command msg :: _ =>
    match decode msg with
    | .instr i => .run i
    | .rejected why => .malformed why

/-- The state once the port has taken its first input; the later ones keep their order (rules R59, R61). -/
def takeInput (s : State) : State := { s with inputs := s.inputs.tail }

/-- A message that is no command ends with ILLEGAL_COMMAND, whatever is wrong with it (rules R92, R93, R231). -/
def execMalformed (s : State) : Host.Outcome State Fault Refusal := raise .illegalCommand s

/-- The state with a command message presented ahead of everything the host has pending. -/
def presentMessage (msg : List Byte) (s : State) : State := { s with inputs := .command msg :: s.inputs }

end Sys2Proof.Machine
end

