-- ==== Sys2Proof/Machine/Step.lean ====
section
/-! DEFINITION. One step of the machine: the next host input, to completion (rules R56, R59). -/

namespace Sys2Proof.Machine

/-- One transaction: a command is taken from the port and performed whole, or the reset event happens, or, with nothing at
the port, the block waits unchanged. A command is complete before the next one is taken, so nothing else has to order them (rules R59,
R61, R260, R261; log entries 1 and 4). -/
def step (s : State) : Host.Outcome State Fault Refusal :=
  match portEvent s with
  | .idle => .next s
  | .reset => .next (resetEvent (takeInput s))
  | .run i => exec i (takeInput s)
  | .malformed _ => execMalformed (takeInput s)

/-- The state with the message that the opcode table's number names presented at the port, so that the next step runs it. -/
def State.withFetchWord (s : State) (nbits w : Nat) : State := presentMessage (tableMessage nbits w) s

end Sys2Proof.Machine
end

