-- ==== Sys2Proof/Safety.lean ====
section
/-! DEFINITION. What claims call a good state and a good run: the invariant of rules R26, R28, R35 and R236, the premise "no
fault recorded" of rule R28, and the agreement of two states on everything the spec gives a value. -/

namespace Sys2Proof.Machine

/-- Rule R28: no command has ended with a fault since reset. -/
abbrev NoFaultRecorded (s : State) : Prop := s.faults = 0#8

/-- Rule R151 of a stored Measurement: its edge is not later than its sample. -/
abbrev MeasurementValid (m : Measurement) : Prop := m.stepInstant.toNat ≤ m.sampleInstant.toNat

/-- Does the response on the port, if it is a fault, stand in `FAULTS`? (rule R236) -/
def responseRecorded (s : State) : Bool :=
  match s.response with
  | some (.fault c) => faultRecorded c s
  | _ => true

/-- The invariant: once constructed, `PREV` is a valid Measurement (R26, R35 a); the bits 0, 6 and 7 of `FAULTS` are 0 (R28);
a fault response has its sticky bit set (R236). -/
abbrev StateInvariant (s : State) : Prop :=
  (s.constructed = true → MeasurementValid s.prev) ∧ s.faults &&& 0xC1#8 = 0#8 ∧ responseRecorded s = true

/-- Two states agree on everything the spec gives a value: on the flags, the faults and the port, and, once constructed, on
every register (rules R27, R36). -/
abbrev SpecifiedAgree (s t : State) : Prop :=
  s.constructed = t.constructed ∧ s.faults = t.faults ∧ s.inputs = t.inputs ∧ s.response = t.response ∧
    (s.constructed = true →
      s.cal = t.cal ∧ s.idleTimeout = t.idleTimeout ∧ s.lastKnownSpeed = t.lastKnownSpeed ∧ s.prev = t.prev)

end Sys2Proof.Machine
end

