-- ==== Sys2Proof/Certificates/Slice0/Obligations.lean ====
section
/-! DEFINITION. The statements for the provers, from the numbered rules of spec/. The helpers of `Sys2Proof.Claims` write the
spec's tables a second time, on plain numbers and apart from the model's own definitions. Every operand and result is compared
as a number (`toNat` is `u32` or `u64`, `toInt` is `s32`, rule R11). A statement says the frame by giving the whole next
state. -/

namespace Sys2Proof.Claims

open Sys2Proof.Machine

/-- The `n` bytes of a number, the most significant first (rule R86). -/
def bigEndian : Nat → Nat → List Byte
  | 0, _ => []
  | n + 1, v => BitVec.ofNat 8 (v / 256 ^ n) :: bigEndian n v

/-- The fields of a calibration record (rule R73). -/
def calFields (c : Calibration) : List Byte :=
  bigEndian 4 c.cal0.toNat ++ bigEndian 4 c.cal1.toNat ++ bigEndian 4 c.cal2.toNat ++ bigEndian 4 c.cal3.toNat

/-- The fields of a Measurement record (rule R78). -/
def measurementFields (m : MeasurementRecord) : List Byte :=
  bigEndian 4 m.step.toNat ++ bigEndian 1 m.dir.toNat ++ bigEndian 8 m.stepInstant.toNat ++
    bigEndian 8 m.sampleInstant.toNat

/-- The fields of a raw input record (rule R79). -/
def rawFields (r : RawRecord) : List Byte :=
  bigEndian 4 r.ddRaw.toNat ++ bigEndian 4 r.step.toNat ++ bigEndian 8 r.sampleInstant.toNat ++ bigEndian 4 r.ticks.toNat

/-- The opcode of a command, its operand fields in the order of rule R90, and the length of its message in bytes
(rule R91). -/
def layout (i : Instr) : Nat × List Byte × Nat :=
  match i with
  | .new cal idle m => (0x01, calFields cal ++ bigEndian 8 idle.toNat ++ measurementFields m, 46)
  | .newRaw cal idle raw => (0x02, calFields cal ++ bigEndian 8 idle.toNat ++ rawFields raw, 45)
  | .update m => (0x03, measurementFields m, 22)
  | .updateRaw raw => (0x04, rawFields raw, 21)
  | .speed => (0x05, [], 1)
  | .position => (0x06, [], 1)
  | .steps => (0x07, [], 1)
  | .stepLower step cal => (0x10, bigEndian 4 step.toNat ++ calFields cal, 21)
  | .stepUpper step cal => (0x11, bigEndian 4 step.toNat ++ calFields cal, 21)
  | .stepRange step cal => (0x12, bigEndian 4 step.toNat ++ calFields cal, 21)
  | .stepComp a b => (0x13, bigEndian 4 a.toNat ++ bigEndian 4 b.toNat, 9)
  | .ssAdd a b => (0x14, bigEndian 4 a.toNat ++ bigEndian 4 b.toNat, 9)
  | .ssSub a b => (0x15, bigEndian 4 a.toNat ++ bigEndian 4 b.toNat, 9)
  | .ddDecode raw ticks => (0x20, bigEndian 4 raw.toNat ++ bigEndian 4 ticks.toNat, 9)
  | .ddEncode dir iterations => (0x21, bigEndian 1 dir.toNat ++ bigEndian 4 iterations.toNat, 6)
  | .dirInvert dir => (0x22, bigEndian 1 dir.toNat, 2)
  | .speedNew delta duration => (0x30, bigEndian 4 delta.toNat ++ bigEndian 8 duration.toNat, 13)
  | .speedMul speed duration => (0x31, bigEndian 4 speed.toNat ++ bigEndian 8 duration.toNat, 13)
  | .mTransition m cal => (0x40, measurementFields m ++ calFields cal, 38)
  | .mCalcSpeed prev curr cal => (0x41, measurementFields prev ++ measurementFields curr ++ calFields cal, 59)
  | .mCalcBounds prev curr cal => (0x42, measurementFields prev ++ measurementFields curr ++ calFields cal, 59)
  | .mEstimate last prev curr cal =>
    (0x43, bigEndian 4 last.toNat ++ measurementFields prev ++ measurementFields curr ++ calFields cal, 63)
  | .mFromRaw raw => (0x44, rawFields raw, 21)
  | .mTimeSince m => (0x45, measurementFields m, 22)

/-- The message of a command: the opcode byte, then the operand fields (rule R84). -/
def message (i : Instr) : List Byte := bigEndian 1 (layout i).1 ++ (layout i).2.1

/-- The opcodes of rule R90, by the ranges that rule R92 leaves. -/
def opcodeInTable (op : Nat) : Prop :=
  (0x01 ≤ op ∧ op ≤ 0x07) ∨ (0x10 ≤ op ∧ op ≤ 0x15) ∨ (0x20 ≤ op ∧ op ≤ 0x22) ∨ (0x30 ≤ op ∧ op ≤ 0x31) ∨
    (0x40 ≤ op ∧ op ≤ 0x45)

/-- The commands that read estimator state (rule R232). -/
def readsEstimator (i : Instr) : Prop :=
  (∃ m, i = .update m) ∨ (∃ raw, i = .updateRaw raw) ∨ i = .speed ∨ i = .position ∨ i = .steps

/-- The constructions (rule R233). -/
def constructs (i : Instr) : Prop := (∃ cal idle m, i = .new cal idle m) ∨ (∃ cal idle raw, i = .newRaw cal idle raw)

/-- The ticks field of the commands that decode (rule R234). -/
def ticksOf (i : Instr) : Option Word32 :=
  match i with
  | .newRaw _ _ raw => some raw.ticks
  | .updateRaw raw => some raw.ticks
  | .ddDecode _ ticks => some ticks
  | .mFromRaw raw => some raw.ticks
  | _ => none

/-- The Measurement records of the commands that take one (rule R235). -/
def measurementsOf (i : Instr) : List MeasurementRecord :=
  match i with
  | .new _ _ m => [m]
  | .update m => [m]
  | .mTransition m _ => [m]
  | .mCalcSpeed prev curr _ => [prev, curr]
  | .mCalcBounds prev curr _ => [prev, curr]
  | .mEstimate _ prev curr _ => [prev, curr]
  | .mTimeSince m => [m]
  | _ => []

/-- The Direction fields of a command (rule R89). -/
def directionsOf (i : Instr) : List Byte :=
  match i with
  | .ddEncode dir _ => [dir]
  | .dirInvert dir => [dir]
  | i => (measurementsOf i).map (·.dir)

/-- Rule R89: a reserved bit of a Direction field is 1. -/
def causeIllegal (i : Instr) : Prop := ∃ dir ∈ directionsOf i, 2 ≤ dir.toNat

/-- Rule R234: the ticks field is 0. -/
def causeZeroClock (i : Instr) : Prop := ∃ ticks, ticksOf i = some ticks ∧ ticks.toNat = 0

/-- Rule R235: a Measurement whose edge is later than its sample. -/
def causeBadMeasurement (i : Instr) : Prop := ∃ m ∈ measurementsOf i, m.sampleInstant.toNat < m.stepInstant.toNat

/-- A Measurement record with no reserved bit set and its Instants in order (rules R89, R151). -/
def Good (m : MeasurementRecord) : Prop := m.dir.toNat < 2 ∧ m.stepInstant.toNat ≤ m.sampleInstant.toNat

/-- The Measurement a record stands for: bit 0 of the Direction field is 1 for CounterClockwise (rule R74). -/
def measurementOf (m : MeasurementRecord) : Measurement :=
  ⟨m.step, if m.dir.toNat % 2 = 1 then .counterClockwise else .clockwise, m.stepInstant, m.sampleInstant⟩

/-- The calibration entry of phase `k` (rule R73). -/
def entry (cal : Calibration) (k : Nat) : Nat :=
  ([cal.cal0, cal.cal1, cal.cal2, cal.cal3].getD k 0#32).toNat

/-- `lower_bound` on numbers (rule R104): whole cycles of 256 sub-steps plus the offset of the phase, modulo `2 ^ 32`. -/
def lowerNumber (step : Nat) (cal : Calibration) : Nat := (step / 4 * 256 + entry cal (step % 4)) % 2 ^ 32

/-- The iteration count of a packed word (rules R75, R136): `2 ^ 31` less its low 31 bits. -/
def iterations (raw : Word32) : Nat := 2 ^ 31 - raw.toNat % 2 ^ 31

/-- A calibration whose four widths are not negative and sum to 256 (rule R113; log entry 6). -/
def CalProper (cal : Calibration) : Prop :=
  CalWellFormed cal ∧ calWidth cal 0#2 + calWidth cal 1#2 + calWidth cal 2#2 + calWidth cal 3#2 = 256

/-- The commands of the function-unit groups (rules R32, R90). -/
def functionUnit (i : Instr) : Prop := ¬ readsEstimator i ∧ ¬ constructs i

/-- `s` with a response at the port and nothing else changed. -/
def answered (r : Result) (s : State) : State := { s with response := some (.ok r) }

/-- `s` after a fault (rule R236), the fault's number given. -/
def faulted (c : FaultCode) (n : Nat) (s : State) : State :=
  { s with faults := s.faults ||| BitVec.ofNat 8 (2 ^ n), response := some (.fault c) }

/-- The length in bytes of the result fields of a command (rule R90, third column of results). -/
def resultLength (i : Instr) : Nat :=
  match i with
  | .new _ _ _ => 0
  | .newRaw _ _ _ => 0
  | .update _ => 0
  | .updateRaw _ => 0
  | .stepRange _ _ => 8
  | .stepComp _ _ => 1
  | .ddDecode _ _ => 5
  | .dirInvert _ => 1
  | .mCalcBounds _ _ _ => 8
  | .mFromRaw _ => 21
  | .mTimeSince _ => 8
  | _ => 4

/-- The code of a Direction in a message (rule R74). -/
def directionCode (d : Direction) : Nat :=
  match d with
  | .clockwise => 0
  | .counterClockwise => 1

/-- The code of a `comp` result (rule R80). -/
def compCode (c : CompCode) : Nat :=
  match c with
  | .equal => 0
  | .clockwise => 1
  | .counterClockwise => 2
  | .antipodal => 3

/-- The status of a fault (rules R83, R231). -/
def statusCode (c : FaultCode) : Nat :=
  match c with
  | .illegalCommand => 1
  | .notConstructed => 2
  | .alreadyConstructed => 3
  | .zeroClock => 4
  | .badMeasurement => 5

/-- The bytes of the result fields, each at its width and most significant byte first (rules R85, R86, R90). A Direction field
is its code, so its bits 7:1 are zero (rule R89). -/
def resultFields (r : Result) : List Byte :=
  match r with
  | .empty => []
  | .speed w => bigEndian 4 w.toNat
  | .position w => bigEndian 4 w.toNat
  | .step w => bigEndian 4 w.toNat
  | .substep w => bigEndian 4 w.toNat
  | .range start stop => bigEndian 4 start.toNat ++ bigEndian 4 stop.toNat
  | .code c => bigEndian 1 (compCode c)
  | .dirDuration d us => bigEndian 1 (directionCode d) ++ bigEndian 4 us.toNat
  | .ddRaw w => bigEndian 4 w.toNat
  | .dir d => bigEndian 1 (directionCode d)
  | .delta w => bigEndian 4 w.toNat
  | .bounds lo hi => bigEndian 4 lo.toNat ++ bigEndian 4 hi.toNat
  | .measurement m =>
    bigEndian 4 m.step.toNat ++ bigEndian 1 (directionCode m.direction) ++ bigEndian 8 m.stepInstant.toNat ++
      bigEndian 8 m.sampleInstant.toNat
  | .duration w => bigEndian 8 w.toNat

/-- The result fields of a command by name (rule R90, column of results). -/
def resultShape (i : Instr) (r : Result) : Prop :=
  match i with
  | .new _ _ _ => r = .empty
  | .newRaw _ _ _ => r = .empty
  | .update _ => r = .empty
  | .updateRaw _ => r = .empty
  | .speed => ∃ w, r = .speed w
  | .position => ∃ w, r = .position w
  | .steps => ∃ w, r = .step w
  | .stepLower _ _ => ∃ w, r = .substep w
  | .stepUpper _ _ => ∃ w, r = .substep w
  | .stepRange _ _ => ∃ start stop, r = .range start stop
  | .stepComp _ _ => ∃ c, r = .code c
  | .ssAdd _ _ => ∃ w, r = .substep w
  | .ssSub _ _ => ∃ w, r = .substep w
  | .ddDecode _ _ => ∃ d us, r = .dirDuration d us
  | .ddEncode _ _ => ∃ w, r = .ddRaw w
  | .dirInvert _ => ∃ d, r = .dir d
  | .speedNew _ _ => ∃ w, r = .speed w
  | .speedMul _ _ => ∃ w, r = .delta w
  | .mTransition _ _ => ∃ w, r = .substep w
  | .mCalcSpeed _ _ _ => ∃ w, r = .speed w
  | .mCalcBounds _ _ _ => ∃ lo hi, r = .bounds lo hi
  | .mEstimate _ _ _ _ => ∃ w, r = .speed w
  | .mFromRaw _ => ∃ m, r = .measurement m
  | .mTimeSince _ => ∃ w, r = .duration w

/-- The host's inputs performed one after the other, each whole, on the state the earlier ones left and with nothing else
pending (rules R59, R61): a command is `exec` of what its message decodes to, a message that is no command takes
ILLEGAL_COMMAND, a reset gives the state after reset. -/
def performAll : List HostInput → State → Host.Outcome State Fault Refusal
  | [], s => .next s
  | .reset :: xs, _ => performAll xs State.reset
  | .command msg :: xs, s =>
    match decode msg with
    | .rejected _ => performAll xs (faulted .illegalCommand 1 s)
    | .instr i =>
      match exec i s with
      | .next t => performAll xs t
      | .fault r => .fault r
      | .refused r => .refused r

end Sys2Proof.Claims

open Sys2Proof Sys2Proof.Machine Sys2Proof.Claims

/-! Messages. -/

/-- R84, R86, R91 (and the operand columns of R90): the message of every command, written out from the table on numbers, has
the length of its format, and the decoder reads the command back from it. -/
def Obligations.DecoderReadsTheSpecLayout : Prop :=
  ∀ i : Instr, (message i).length = (layout i).2.2 ∧ decode (message i) = .instr i

/-- Decoding the encoding of any command, with every operand at every value, gives the command back. -/
def Obligations.DecodeOfEncodeIsIdentity : Prop :=
  ∀ i : Instr, decode (encode i) = .instr i

/-- Each command has one message: what decodes to a command is that command's encoding. -/
def Obligations.DecodedMessageIsItsEncoding : Prop :=
  ∀ (msg : List Byte) (i : Instr), decode msg = .instr i → msg = encode i

/-- Messages of spec/95 (programs P1, P3, P5 and sections 2.4, 2.5) written out byte by byte decode to the commands they stand
for. -/
def Obligations.SpecMessagesDecodeToTheirCommands : Prop :=
  decode [0x03, 0, 0, 0, 1, 0, 0, 0, 0, 0, 0, 0, 0x27, 0x10, 0, 0, 0, 0, 0, 0, 0x27, 0x10] =
      .instr (.update ⟨1#32, 0#8, 10000#64, 10000#64⟩) ∧
    decode [0x04, 0xFF, 0xFF, 0x44, 0x33, 0xFF, 0xFF, 0xFF, 0xFF, 0, 0, 0, 0, 0, 1, 0xAD, 0xB0, 0, 0, 0, 0x7D] =
      .instr (.updateRaw ⟨0xFFFF4433#32, 0xFFFFFFFF#32, 110000#64, 125#32⟩) ∧
    decode [0x20, 0xFF, 0xFF, 0xFF, 0xF6, 0, 0, 0, 0x7D] = .instr (.ddDecode 0xFFFFFFF6#32 125#32) ∧
    decode [0x21, 0x00, 0x00, 0x01, 0x77, 0x9A] = .instr (.ddEncode 0#8 96154#32) ∧
    decode [0x30, 0, 0, 0, 0x40, 0, 0, 0, 0, 0, 0, 0x32, 0xC8] = .instr (.speedNew 64#32 13000#64) ∧
    decode [0x06] = .instr .position

/-- R92: a message whose opcode byte is outside the table takes ILLEGAL_COMMAND, whatever follows the opcode, and nothing but
the `FAULTS` bit (and the port) changes. -/
def Obligations.ReservedOpcodeTakesIllegalCommand : Prop :=
  ∀ (s : State) (op : Byte) (body : List Byte) (rest : List HostInput),
    ¬ opcodeInTable op.toNat → s.inputs = .command (op :: body) :: rest →
      step s = .next (faulted .illegalCommand 1 { s with inputs := rest })

/-- R93: a message shorter or longer than the length rule R91 gives for its opcode takes ILLEGAL_COMMAND. -/
def Obligations.WrongLengthTakesIllegalCommand : Prop :=
  ∀ (s : State) (i : Instr) (body : List Byte) (rest : List HostInput),
    body.length + 1 ≠ (layout i).2.2 → s.inputs = .command (BitVec.ofNat 8 (layout i).1 :: body) :: rest →
      step s = .next (faulted .illegalCommand 1 { s with inputs := rest })

/-- R85 (with R74, R83, R86, R89 and the result column of R90): a response is one status byte, 0x00 for OK and the fault's code
otherwise, followed, only when the status is OK, by the result fields the table names for the command, in its order and of its
total length, each most significant byte first. -/
def Obligations.ResponseIsStatusThenResultFields : Prop :=
  ∀ (i : Instr) (s t : State), exec i s = .next t →
    (∃ r, t.response = some (.ok r) ∧ resultShape i r ∧ responseBytes (.ok r) = bigEndian 1 0 ++ resultFields r ∧
        (resultFields r).length = resultLength i) ∨
      (∃ c, t.response = some (.fault c) ∧ responseBytes (.fault c) = bigEndian 1 (statusCode c))

/-! The step of the machine. -/

/-- A step takes the command at the port and runs it: it is `exec` of the decoded command on the state without that input. -/
def Obligations.StepRunsTheDecodedCommand : Prop :=
  ∀ (s : State) (msg : List Byte) (rest : List HostInput) (i : Instr),
    s.inputs = .command msg :: rest → decode msg = .instr i → step s = exec i { s with inputs := rest }

/-- R260 and the model's own port (log entries 1 and 4): the reset event clears `CONSTRUCTED`, `FAULTS` and the port's response
in every state; with nothing at the port nothing changes; `State.reset` has both flags clear. -/
def Obligations.ResetClearsTheFlagsAndAnIdlePortChangesNothing : Prop :=
  (∀ (s : State) (rest : List HostInput), s.inputs = .reset :: rest →
      ∃ t, step s = .next t ∧ t.constructed = false ∧ t.faults = 0#8 ∧ t.response = none ∧ t.inputs = rest) ∧
    (∀ s : State, s.inputs = [] → step s = .next s) ∧
    State.reset.constructed = false ∧ State.reset.faults = 0#8

/-- R64: every message at the port, whatever its bytes and whatever the state, is taken, performed and answered. That the empty
message counts as a command, and is answered, is the model's own inference (log entry 5). -/
def Obligations.EveryCommandCompletesAndIsAnswered : Prop :=
  ∀ (s : State) (msg : List Byte) (rest : List HostInput), s.inputs = .command msg :: rest →
    ∃ (t : State) (r : Response), step s = .next t ∧ t.inputs = rest ∧ t.response = some r

/-- R59, R61, R64: a run performs the host's inputs one at a time, each whole and in the order issued, without a stop: after as
many steps as there are inputs `xs`, the state is the one that performing `xs` one after the other gives, with the later
inputs `ys` untouched and without influence. The list of inputs, the reset among them and the empty message that is answered
are the model's own (log entries 1, 4 and 5). -/
def Obligations.RunPerformsAllInputs : Prop :=
  ∀ (s : State) (xs ys : List HostInput), ∃ t : State,
    performAll xs { s with inputs := [] } = .next t ∧
    Host.Core.run Sys2Proof.core xs.length { s with inputs := xs ++ ys } = .next { t with inputs := ys }

/-- R26, R28, R35 (a), R236: the invariant holds after reset. -/
def Obligations.ResetSatisfiesTheInvariant : Prop := StateInvariant State.reset

/-- R26, R28, R35 (a), R236: every step, from every state, keeps the invariant. -/
def Obligations.EveryStepKeepsTheInvariant : Prop :=
  ∀ s t : State, StateInvariant s → step s = .next t → StateInvariant t

/-- R36, R232: the registers that hold no specified value before construction are never observable. Two states that agree on
everything the spec gives a value run for any number of steps to states that agree in the same way, so that no choice of their
reset values (log entry 3) shows in a response, a flag or a later register. -/
def Obligations.UnspecifiedRegistersAreNeverObserved : Prop :=
  ∀ (k : Nat) (s t : State), SpecifiedAgree s t →
    ∃ s' t', Host.Core.run Sys2Proof.core k s = .next s' ∧ Host.Core.run Sys2Proof.core k t = .next t' ∧
      SpecifiedAgree s' t'

/-! Faults. -/

/-- R89, R232 to R237: every command raises the fault of lowest code whose cause it meets, with exactly the fault entry of R236,
and a command that meets no cause ends with status OK and leaves `FAULTS` alone. -/
def Obligations.FaultsAreRaisedExactlyByTheirCauses : Prop :=
  ∀ (i : Instr) (s : State),
    (causeIllegal i → exec i s = .next (faulted .illegalCommand 1 s)) ∧
    (¬ causeIllegal i → readsEstimator i → s.constructed = false → exec i s = .next (faulted .notConstructed 2 s)) ∧
    (¬ causeIllegal i → constructs i → s.constructed = true → exec i s = .next (faulted .alreadyConstructed 3 s)) ∧
    (¬ causeIllegal i → ¬ (readsEstimator i ∧ s.constructed = false) → ¬ (constructs i ∧ s.constructed = true) →
      (causeZeroClock i → exec i s = .next (faulted .zeroClock 4 s)) ∧
      (causeBadMeasurement i → exec i s = .next (faulted .badMeasurement 5 s)) ∧
      (¬ causeZeroClock i → ¬ causeBadMeasurement i →
        ∃ (r : Result) (t : State), exec i s = .next t ∧ t.response = some (.ok r) ∧ t.faults = s.faults))

/-- R236, R28: whatever stood at the port, a command that ends with fault code `c` changes nothing but the port and the bit of
`FAULTS` numbered `c`, and a command that ends with status OK leaves `FAULTS` as it was. -/
def Obligations.FaultChangesOnlyItsStickyBit : Prop :=
  ∀ (s t : State) (msg : List Byte) (rest : List HostInput), s.inputs = .command msg :: rest → step s = .next t →
    (∀ c, t.response = some (.fault c) → t = faulted c (faultNumber c) { s with inputs := rest }) ∧
    (∀ r, t.response = some (.ok r) → t.faults = s.faults)

/-! Estimator state and its owners. -/

/-- R29: a command writes `CAL` and `IDLE_TIMEOUT` only when it is the NEW or NEW_RAW that constructs the block, and a
constructed block stays constructed. -/
def Obligations.ConfigurationIsImmutableOnceConstructed : Prop :=
  ∀ (s t : State) (msg : List Byte) (rest : List HostInput), s.inputs = .command msg :: rest → step s = .next t →
    (s.constructed = true → t.constructed = true) ∧
    ((t.cal = s.cal ∧ t.idleTimeout = s.idleTimeout) ∨
      (s.constructed = false ∧ t.constructed = true ∧ ∃ i, decode msg = .instr i ∧ constructs i))

/-- R32: a command of the function-unit groups changes only the response and, when it faults, `FAULTS`; and its response does
not depend on any register. -/
def Obligations.FunctionUnitsReadAndWriteNoRegister : Prop :=
  ∀ i : Instr, functionUnit i → ∃ r : Response, ∀ s : State,
    (∀ v, r = .ok v → exec i s = .next (answered v s)) ∧
    (∀ c, r = .fault c → exec i s = .next (faulted c (faultNumber c) s))

/-- R54: a query or function-unit command that does not fault leaves every register, and issuing it again gives the same
response and the same state. -/
def Obligations.QueriesAndFunctionUnitsAreIdempotent : Prop :=
  ∀ (i : Instr) (s t : State) (r : Result),
    (functionUnit i ∨ i = .speed ∨ i = .position ∨ i = .steps) → exec i s = .next t → t.response = some (.ok r) →
      t = answered r s ∧ exec i t = .next t

/-- R205: what an update makes of the registers does not depend on a function-unit command issued before it. -/
def Obligations.UpdateIgnoresFunctionUnitCommandsBefore : Prop :=
  ∀ (i : Instr) (m : MeasurementRecord) (s s₁ t t₁ : State),
    functionUnit i → exec i s = .next s₁ → exec (.update m) s = .next t → exec (.update m) s₁ = .next t₁ →
      t₁.cal = t.cal ∧ t₁.idleTimeout = t.idleTimeout ∧ t₁.lastKnownSpeed = t.lastKnownSpeed ∧ t₁.prev = t.prev ∧
        t₁.constructed = t.constructed ∧ t₁.response = t.response

/-! Step and SubStep (spec/40). -/

/-- R104: STEP_LOWER answers whole cycles of 256 sub-steps plus the calibrated offset of the phase, modulo `2 ^ 32`, in every
state, and the answer has period `2 ^ 26` in the step. -/
def Obligations.StepLowerIsCyclesPlusPhaseOffset : Prop :=
  ∀ (step : Word32) (cal : Calibration) (s : State), ∃ w : Word32,
    exec (.stepLower step cal) s = .next (answered (.substep w) s) ∧ w.toNat = lowerNumber step.toNat cal ∧
    exec (.stepLower (step + 0x04000000#32) cal) s = .next (answered (.substep w) s)

/-- R105: STEP_UPPER answers the lower bound of the next step, the increment wrapping at `2 ^ 32`. -/
def Obligations.StepUpperIsLowerBoundOfTheNextStep : Prop :=
  ∀ (step : Word32) (cal : Calibration) (s : State), ∃ w : Word32,
    exec (.stepUpper step cal) s = .next (answered (.substep w) s) ∧
    exec (.stepLower (step + 1#32) cal) s = .next (answered (.substep w) s) ∧
    w.toNat = lowerNumber ((step.toNat + 1) % 2 ^ 32) cal

/-- R106, R107: STEP_RANGE answers the two bounds, and the end of a step's range is the start of the next step's. -/
def Obligations.StepRangesAreContiguous : Prop :=
  ∀ (step : Word32) (cal : Calibration) (s : State), ∃ a b c : Word32,
    exec (.stepRange step cal) s = .next (answered (.range a b) s) ∧
    exec (.stepRange (step + 1#32) cal) s = .next (answered (.range b c) s) ∧
    exec (.stepLower step cal) s = .next (answered (.substep a) s) ∧
    exec (.stepUpper step cal) s = .next (answered (.substep b) s)

/-- R113 as written, EXPECTED TO FAIL: its inference that the four widths of a well-formed calibration sum to 256 does not
follow from their being non-negative, since a table may wrap around the SubStep domain (log entry 6). -/
def Obligations.WellFormedWidthsSumTo256AsR113Infers : Prop :=
  ∀ cal : Calibration, CalWellFormed cal →
    calWidth cal 0#2 + calWidth cal 1#2 + calWidth cal 2#2 + calWidth cal 3#2 = 256 ∧
    (∀ p : BitVec 2, calWidth cal p ≤ 256) ∧
    (∀ step : Word32, (upperBound step cal - lowerBound step cal).toInt = calWidth cal (phase step))

/-- What holds of R113: the width of every step's range is the width of its phase, for every calibration, and with non-negative
widths that sum to 256 (log entry 6) each is at most 256. -/
def Obligations.RangeWidthIsThePhaseWidth : Prop :=
  ∀ (cal : Calibration) (step : Word32),
    (upperBound step cal - lowerBound step cal).toInt = calWidth cal (phase step) ∧
    (CalProper cal → 0 ≤ calWidth cal (phase step) ∧ calWidth cal (phase step) ≤ 256)

/-- R108: STEP_COMP answers by the distance from `a` to `b` modulo `2 ^ 32`, and exchanging the operands gives the opposite
direction, EQUAL and ANTIPODAL being their own opposites. -/
def Obligations.StepCompFollowsTheShorterWay : Prop :=
  ∀ (a b : Word32) (s : State), ∃ c c' : CompCode,
    exec (.stepComp a b) s = .next (answered (.code c) s) ∧ exec (.stepComp b a) s = .next (answered (.code c') s) ∧
    ((b.toNat + 2 ^ 32 - a.toNat) % 2 ^ 32 = 0 → c = .equal ∧ c' = .equal) ∧
    (0 < (b.toNat + 2 ^ 32 - a.toNat) % 2 ^ 32 → (b.toNat + 2 ^ 32 - a.toNat) % 2 ^ 32 < 2 ^ 31 →
      c = .clockwise ∧ c' = .counterClockwise) ∧
    ((b.toNat + 2 ^ 32 - a.toNat) % 2 ^ 32 = 2 ^ 31 → c = .antipodal ∧ c' = .antipodal) ∧
    (2 ^ 31 < (b.toNat + 2 ^ 32 - a.toNat) % 2 ^ 32 → c = .counterClockwise ∧ c' = .clockwise)

/-- R110, R111: SS_ADD and SS_SUB are modular, and the signed difference is the true displacement wherever that lies in the
signed 32-bit range. -/
def Obligations.SubstepSumAndDifferenceAreModular : Prop :=
  ∀ (a b : Word32) (s : State), ∃ x y : Word32,
    exec (.ssAdd a b) s = .next (answered (.substep x) s) ∧ exec (.ssSub a b) s = .next (answered (.substep y) s) ∧
    x.toNat = (a.toNat + b.toNat) % 2 ^ 32 ∧ y.toNat = (a.toNat + 2 ^ 32 - b.toNat) % 2 ^ 32 ∧
    (∀ d : Int, -2 ^ 31 ≤ d → d < 2 ^ 31 → (a.toNat : Int) = ((b.toNat : Int) + d) % 2 ^ 32 → y.toInt = d)

/-- R100, R101: `raw()` inverts `Step::new` on every signed 32-bit integer. -/
def Obligations.RawInvertsStepNew : Prop :=
  ∀ i : Int, -2 ^ 31 ≤ i → i < 2 ^ 31 → rawOfWord (wordOfInt i) = i

/-! Direction and duration (spec/41). -/

/-- R131, R89: DIR_INVERT answers the other direction, twice gives the direction back, and a set reserved bit takes
ILLEGAL_COMMAND. -/
def Obligations.DirInvertExchangesTheDirections : Prop :=
  ∀ (dir : Byte) (s : State),
    (dir.toNat < 2 → ∃ d : Direction,
      exec (.dirInvert dir) s = .next (answered (.dir d) s) ∧ (directionField d).toNat = 1 - dir.toNat ∧
      exec (.dirInvert (directionField d)) s = .next (answered (.dir (invert d)) s) ∧
      directionField (invert d) = dir) ∧
    (2 ≤ dir.toNat → exec (.dirInvert dir) s = .next (faulted .illegalCommand 1 s))

/-- R133: DD_ENCODE answers the anchor of the direction less the iterations, modulo `2 ^ 32`; for 1 to `2 ^ 31` iterations the
word lies in the half its direction owns. -/
def Obligations.DdEncodeIsAnchorLessIterations : Prop :=
  ∀ (dir : Byte) (k : Word32) (s : State),
    (dir.toNat < 2 → ∃ w : Word32, exec (.ddEncode dir k) s = .next (answered (.ddRaw w) s) ∧
      w.toNat = ((1 - dir.toNat) * 2 ^ 31 + 2 ^ 32 - k.toNat) % 2 ^ 32 ∧
      (1 ≤ k.toNat → k.toNat ≤ 2 ^ 31 → (w.toNat < 2 ^ 31 ↔ dir.toNat = 0))) ∧
    (2 ≤ dir.toNat → exec (.ddEncode dir k) s = .next (faulted .illegalCommand 1 s))

/-- R135, R136, R234: DD_DECODE answers the direction by the sign of the word and the floor of the saturated cycle count by the
ticks, the iteration count being 1 to `2 ^ 31` for every word; zero ticks take ZERO_CLOCK. -/
def Obligations.DdDecodeGivesDirectionAndDuration : Prop :=
  ∀ (raw ticks : Word32) (s : State),
    (ticks.toNat ≠ 0 → ∃ (d : Direction) (us : Word32),
      exec (.ddDecode raw ticks) s = .next (answered (.dirDuration d us) s) ∧
      (raw.toInt < 0 → d = .counterClockwise) ∧ (0 ≤ raw.toInt → d = .clockwise) ∧
      ddIterations raw = iterations raw ∧ 1 ≤ iterations raw ∧ iterations raw ≤ 2 ^ 31 ∧
      us.toNat = min (iterations raw * 13) (2 ^ 32 - 1) / ticks.toNat) ∧
    (ticks.toNat = 0 → exec (.ddDecode raw ticks) s = .next (faulted .zeroClock 4 s))

/-- R139: decoding gives back the direction and the iteration count of every word encoded with 1 to `2 ^ 31` iterations, and
gives the other direction and `2 ^ 31` for a word encoded with none. -/
def Obligations.DirectionAndIterationsRoundTrip : Prop :=
  ∀ (d : Direction) (k : Word32),
    (1 ≤ k.toNat → k.toNat ≤ 2 ^ 31 → ddDirection (ddEncode d k) = d ∧ ddIterations (ddEncode d k) = k.toNat) ∧
    (k.toNat = 0 → ddDirection (ddEncode d k) = invert d ∧ ddIterations (ddEncode d k) = 2 ^ 31)

/-- R137, R138: from 330,382,100 iterations on, the anchor words among them, the decoded duration is
`floor((2 ^ 32 - 1) / ticks)`; below, it is the exact floor. -/
def Obligations.DecodedDurationSaturates : Prop :=
  ∀ (raw ticks : Word32) (s : State), ticks.toNat ≠ 0 → ∃ (d : Direction) (us : Word32),
    exec (.ddDecode raw ticks) s = .next (answered (.dirDuration d us) s) ∧
    (330382100 ≤ iterations raw → us.toNat = (2 ^ 32 - 1) / ticks.toNat) ∧
    (iterations raw < 330382100 → us.toNat = iterations raw * 13 / ticks.toNat) ∧
    (raw = 0x80000000#32 → d = .counterClockwise ∧ us.toNat = (2 ^ 32 - 1) / ticks.toNat) ∧
    (raw = 0x00000000#32 → d = .clockwise ∧ us.toNat = (2 ^ 32 - 1) / ticks.toNat)

/-! Speed (spec/43). -/

/-- R184: SPEED_NEW answers `delta * 2 ^ 20 / duration` truncated toward zero and clamped; a zero duration saturates by the
sign of the delta and one of `2 ^ 32` or more answers 0. A negative duration, which no command can pass, gives 0. -/
def Obligations.SpeedNewIsTheClampedQuotient : Prop :=
  (∀ (delta : Word32) (duration : Word64) (s : State), ∃ v : Word32,
    exec (.speedNew delta duration) s = .next (answered (.speed v) s) ∧
    (2 ^ 32 ≤ duration.toNat → v.toInt = 0) ∧
    (duration.toNat = 0 → 0 < delta.toInt → v.toInt = 2 ^ 31 - 1) ∧
    (duration.toNat = 0 → delta.toInt < 0 → v.toInt = -2 ^ 31) ∧
    (duration.toNat = 0 → delta.toInt = 0 → v.toInt = 0) ∧
    (0 < duration.toNat → duration.toNat < 2 ^ 32 →
      v.toInt = max (-2 ^ 31) (min (2 ^ 31 - 1) ((delta.toInt * 2 ^ 20).tdiv duration.toNat)))) ∧
  (∀ (delta : Word32) (t : Int), t < 0 → (makeSpeed delta t).toInt = 0)

/-- R185 (b) to (f), with one exception the rule passes over: `-2 ^ 31` has no negation in 32 bits, so (b) is stated for the
other deltas. `Speed::new` is odd where neither side clamps, monotone in the delta, has its sign or is 0, is 0 for a zero
delta, and differs from the quotient exactly when `2048 * duration` is reached (exceeded, for a negative delta). -/
def Obligations.SpeedNewIsOddMonotoneAndSigned : Prop :=
  ∀ (a b : Word32) (t : Int),
    (0 < t → t < 2 ^ 32 → a.toInt ≠ -2 ^ 31 → |a.toInt| < 2048 * t → (makeSpeed (-a) t).toInt = -(makeSpeed a t).toInt) ∧
    (a.toInt ≤ b.toInt → (makeSpeed a t).toInt ≤ (makeSpeed b t).toInt) ∧
    ((0 < a.toInt → 0 ≤ (makeSpeed a t).toInt) ∧ (a.toInt < 0 → (makeSpeed a t).toInt ≤ 0)) ∧
    (a.toInt = 0 → (makeSpeed a t).toInt = 0) ∧
    (0 < t → t < 2 ^ 32 → ((makeSpeed a t).toInt ≠ (a.toInt * 2 ^ 20).tdiv t ↔
      (0 < a.toInt ∧ 2048 * t ≤ a.toInt) ∨ (a.toInt < 0 ∧ 2048 * t < -a.toInt)))

/-- R187: SPEED_MUL answers bits 51:20 of the 64-bit wrapping product, which is the floor of the true displacement modulo
`2 ^ 32` for every speed and duration. -/
def Obligations.SpeedMulIsTheFloorOfTheDisplacement : Prop :=
  ∀ (v : Word32) (t : Word64) (s : State), ∃ w : Word32,
    exec (.speedMul v t) s = .next (answered (.delta w) s) ∧
    (w.toNat : Int) = (v.toInt * t.toNat) % 2 ^ 64 / 2 ^ 20 % 2 ^ 32 ∧
    (w.toNat : Int) = (v.toInt * t.toNat).fdiv (2 ^ 20) % 2 ^ 32

/-- R188: a non-negative displacement turned into a speed and back over the same duration, without clamping, loses at most
`1 + floor(t / 2 ^ 20)` sub-steps and gains none. -/
def Obligations.SpeedRoundTripLosesAtMostItsTruncation : Prop :=
  ∀ (delta : Word32) (t : Word64), 0 < t.toNat → t.toNat < 2 ^ 32 → 0 ≤ delta.toInt → delta.toInt < 2048 * t.toNat →
    (mulSpeed (makeSpeed delta t.toNat) t).toInt ≤ delta.toInt ∧
    delta.toInt - 1 - t.toNat / 2 ^ 20 ≤ (mulSpeed (makeSpeed delta t.toNat) t).toInt

/-! Measurement (spec/42). -/

/-- R153, R234: M_FROM_RAW keeps the step and the sample instant, takes direction and elapsed time as DD_DECODE answers them,
puts the edge that much before the sample or at 0, and so always answers a valid Measurement; zero ticks take ZERO_CLOCK. -/
def Obligations.MFromRawSubtractsTheElapsedTime : Prop :=
  ∀ (raw : RawRecord) (s : State),
    (raw.ticks.toNat ≠ 0 → ∃ (m : Measurement) (us : Word32),
      exec (.mFromRaw raw) s = .next (answered (.measurement m) s) ∧
      exec (.ddDecode raw.ddRaw raw.ticks) s = .next (answered (.dirDuration m.direction us) s) ∧
      m.step = raw.step ∧ m.sampleInstant = raw.sampleInstant ∧
      (us.toNat ≤ raw.sampleInstant.toNat → m.stepInstant.toNat = raw.sampleInstant.toNat - us.toNat) ∧
      (raw.sampleInstant.toNat < us.toNat → m.stepInstant.toNat = 0) ∧ MeasurementValid m) ∧
    (raw.ticks.toNat = 0 → exec (.mFromRaw raw) s = .next (faulted .zeroClock 4 s))

/-- R155: M_TRANSITION answers the lower bound of the step for a Clockwise edge and the upper bound for a CounterClockwise
one. -/
def Obligations.MTransitionIsTheBoundTheEdgeEntered : Prop :=
  ∀ (m : MeasurementRecord) (cal : Calibration) (s : State), Good m → ∃ w : Word32,
    exec (.mTransition m cal) s = .next (answered (.substep w) s) ∧
    (m.dir.toNat = 0 → exec (.stepLower m.step cal) s = .next (answered (.substep w) s)) ∧
    (m.dir.toNat = 1 → exec (.stepUpper m.step cal) s = .next (answered (.substep w) s))

/-- R154: M_TIME_SINCE answers the sample instant less the edge instant, exactly, for every valid Measurement. -/
def Obligations.MTimeSinceIsTheExactDifference : Prop :=
  ∀ (m : MeasurementRecord) (s : State), Good m → ∃ d : Word64,
    exec (.mTimeSince m) s = .next (answered (.duration d) s) ∧
    d.toNat + m.stepInstant.toNat = m.sampleInstant.toNat

/-- R157: M_CALC_SPEED answers the speed that SPEED_NEW makes of the difference of the two transitions over the time between
the two edges, and 0 when the newer edge is stamped earlier. -/
def Obligations.MCalcSpeedIsTheExactEdgeToEdgeSpeed : Prop :=
  ∀ (prev curr : MeasurementRecord) (cal : Calibration) (s : State), Good prev → Good curr →
    ∃ tc tp delta v : Word32,
      exec (.mCalcSpeed prev curr cal) s = .next (answered (.speed v) s) ∧
      exec (.mTransition curr cal) s = .next (answered (.substep tc) s) ∧
      exec (.mTransition prev cal) s = .next (answered (.substep tp) s) ∧
      exec (.ssSub tc tp) s = .next (answered (.substep delta) s) ∧
      (curr.stepInstant.toNat < prev.stepInstant.toNat → v = 0#32) ∧
      (∀ dt : Word64, prev.stepInstant.toNat + dt.toNat = curr.stepInstant.toNat →
        exec (.speedNew delta dt) s = .next (answered (.speed v) s))

/-- R158 to R162: M_CALC_BOUNDS answers the speeds to the two ends of the range of the previous step over window A, when the
edge came after the previous poll and window A is strictly larger, and otherwise the speeds to the two ends of the range of the
current step over window B. -/
def Obligations.MCalcBoundsUsesTheLargerWindow : Prop :=
  ∀ (prev curr : MeasurementRecord) (cal : Calibration) (s : State), Good prev → Good curr →
    ∃ lo hi t : Word32,
      exec (.mCalcBounds prev curr cal) s = .next (answered (.bounds lo hi) s) ∧
      exec (.mTransition curr cal) s = .next (answered (.substep t) s) ∧
      (∀ a b : Word64, prev.sampleInstant.toNat + a.toNat = curr.stepInstant.toNat →
        curr.stepInstant.toNat + b.toNat = curr.sampleInstant.toNat → b.toNat < a.toNat →
        exec (.speedNew (t - upperBound prev.step cal) a) s = .next (answered (.speed lo) s) ∧
        exec (.speedNew (t - lowerBound prev.step cal) a) s = .next (answered (.speed hi) s)) ∧
      (∀ b : Word64, curr.stepInstant.toNat + b.toNat = curr.sampleInstant.toNat →
        curr.stepInstant.toNat ≤ prev.sampleInstant.toNat + b.toNat →
        exec (.speedNew (lowerBound curr.step cal - t) b) s = .next (answered (.speed lo) s) ∧
        exec (.speedNew (upperBound curr.step cal - t) b) s = .next (answered (.speed hi) s))

/-- R162: with a well-formed calibration the bounds are ordered, for window A when 256 more than the displacement from the
previous step's upper bound is still in the signed range. There the rule also leans on R113's "each is at most 256", which a
wrap-around table breaks (log entry 6), so that width is a premise. -/
def Obligations.BoundsAreOrderedForAWellFormedCalibration : Prop :=
  ∀ (prev curr : Measurement) (cal : Calibration), CalWellFormed cal →
    ((∃ a, selectWindow prev curr = .pollToEdge a) → calWidth cal (phase prev.step) ≤ 256 ∧
      (transition curr cal - upperBound prev.step cal).toInt + 256 ≤ 2 ^ 31 - 1) →
    (speedBounds prev curr cal).1.toInt ≤ (speedBounds prev curr cal).2.toInt

/-- R162, last sentence before the uses: with a well-formed calibration and an unchanged step, 0 lies between the bounds. -/
def Obligations.ZeroLiesInTheBoundsOfAnUnchangedStep : Prop :=
  ∀ (prev curr : Measurement) (cal : Calibration), CalWellFormed cal → prev.step = curr.step →
    (speedBounds prev curr cal).1.toInt ≤ 0 ∧ 0 ≤ (speedBounds prev curr cal).2.toInt

/-- R163, R164: M_ESTIMATE answers the exact speed, unclamped, when the step changed, and otherwise the last speed brought to at
most `hi` and then to at least `lo` of the bounds. -/
def Obligations.MEstimateIsExactOrClampedIntoTheBounds : Prop :=
  ∀ (last : Word32) (prev curr : MeasurementRecord) (cal : Calibration) (s : State), Good prev → Good curr →
    (prev.step ≠ curr.step → ∃ v : Word32,
      exec (.mEstimate last prev curr cal) s = .next (answered (.speed v) s) ∧
      exec (.mCalcSpeed prev curr cal) s = .next (answered (.speed v) s)) ∧
    (prev.step = curr.step → ∃ v lo hi : Word32,
      exec (.mEstimate last prev curr cal) s = .next (answered (.speed v) s) ∧
      exec (.mCalcBounds prev curr cal) s = .next (answered (.bounds lo hi) s) ∧
      v.toInt = max lo.toInt (min last.toInt hi.toInt))

/-- R165: with the step unchanged and the bounds ordered, the estimate lies within the bounds. -/
def Obligations.EstimateLiesWithinOrderedBounds : Prop :=
  ∀ (last lo hi v : Word32) (prev curr : MeasurementRecord) (cal : Calibration) (s : State),
    prev.step = curr.step → exec (.mCalcBounds prev curr cal) s = .next (answered (.bounds lo hi) s) →
    exec (.mEstimate last prev curr cal) s = .next (answered (.speed v) s) → lo.toInt ≤ hi.toInt →
    lo.toInt ≤ v.toInt ∧ v.toInt ≤ hi.toInt

/-! The estimator (spec/44). -/

/-- R200: NEW, opcode 0x01 in format FCM, latches the configuration, keeps the initial Measurement, sets the speed to 0 and
`CONSTRUCTED` to 1, and changes nothing else; its three faults come in the rule's order. -/
def Obligations.NewConstructsOnce : Prop :=
  ∀ (cal : Calibration) (idle : Word64) (m : MeasurementRecord) (s : State),
    decode (0x01#8 :: (calFields cal ++ bigEndian 8 idle.toNat ++ measurementFields m)) = .instr (.new cal idle m) ∧
    (2 ≤ m.dir.toNat → exec (.new cal idle m) s = .next (faulted .illegalCommand 1 s)) ∧
    (m.dir.toNat < 2 → s.constructed = true → exec (.new cal idle m) s = .next (faulted .alreadyConstructed 3 s)) ∧
    (m.dir.toNat < 2 → s.constructed = false → m.sampleInstant.toNat < m.stepInstant.toNat →
      exec (.new cal idle m) s = .next (faulted .badMeasurement 5 s)) ∧
    (Good m → s.constructed = false →
      exec (.new cal idle m) s = .next
        { cal := cal, idleTimeout := idle, lastKnownSpeed := 0#32, prev := measurementOf m, constructed := true,
          faults := s.faults, inputs := s.inputs, response := some (.ok .empty) })

/-- R201, R97: NEW_RAW, opcode 0x02 in format FCR, is M_FROM_RAW followed by NEW with the Measurement it answers, as one
transaction; ALREADY_CONSTRUCTED comes before ZERO_CLOCK. -/
def Obligations.NewRawIsFromRawThenNew : Prop :=
  ∀ (cal : Calibration) (idle : Word64) (raw : RawRecord) (s : State),
    decode (0x02#8 :: (calFields cal ++ bigEndian 8 idle.toNat ++ rawFields raw)) = .instr (.newRaw cal idle raw) ∧
    (s.constructed = true → exec (.newRaw cal idle raw) s = .next (faulted .alreadyConstructed 3 s)) ∧
    (s.constructed = false → raw.ticks.toNat = 0 → exec (.newRaw cal idle raw) s = .next (faulted .zeroClock 4 s)) ∧
    (s.constructed = false → raw.ticks.toNat ≠ 0 → ∃ m : Measurement,
      exec (.mFromRaw raw) s = .next (answered (.measurement m) s) ∧
      exec (.newRaw cal idle raw) s = exec (.new cal idle (measurementField m)) s ∧
      exec (.newRaw cal idle raw) s = .next
        { cal := cal, idleTimeout := idle, lastKnownSpeed := 0#32, prev := m, constructed := true,
          faults := s.faults, inputs := s.inputs, response := some (.ok .empty) })

/-- R203: UPDATE, opcode 0x03 in format FM, sets the speed to 0 when the last edge is at least the idle timeout old and
otherwise to what M_ESTIMATE answers for the old speed, the old Measurement, the new one and the calibration; it keeps the new
Measurement in both cases and changes nothing else; its three faults come in the rule's order. A stored Measurement is assumed
valid (the invariant). -/
def Obligations.UpdateReplacesSpeedAndMeasurement : Prop :=
  ∀ (m : MeasurementRecord) (s : State),
    decode (0x03#8 :: measurementFields m) = .instr (.update m) ∧
    (2 ≤ m.dir.toNat → exec (.update m) s = .next (faulted .illegalCommand 1 s)) ∧
    (m.dir.toNat < 2 → s.constructed = false → exec (.update m) s = .next (faulted .notConstructed 2 s)) ∧
    (m.dir.toNat < 2 → s.constructed = true → m.sampleInstant.toNat < m.stepInstant.toNat →
      exec (.update m) s = .next (faulted .badMeasurement 5 s)) ∧
    (Good m → s.constructed = true → s.idleTimeout.toNat ≤ m.sampleInstant.toNat - m.stepInstant.toNat →
      exec (.update m) s = .next
        { s with lastKnownSpeed := 0#32, prev := measurementOf m, response := some (.ok .empty) }) ∧
    (Good m → s.constructed = true → MeasurementValid s.prev →
      m.sampleInstant.toNat - m.stepInstant.toNat < s.idleTimeout.toNat → ∃ v : Word32,
      exec (.mEstimate s.lastKnownSpeed (measurementField s.prev) m s.cal) s = .next (answered (.speed v) s) ∧
      exec (.update m) s = .next
        { s with lastKnownSpeed := v, prev := measurementOf m, response := some (.ok .empty) })

/-- R204, R97: UPDATE_RAW, opcode 0x04 in format FR, is M_FROM_RAW followed by UPDATE with the Measurement it answers, as one
transaction; NOT_CONSTRUCTED comes before ZERO_CLOCK. -/
def Obligations.UpdateRawIsFromRawThenUpdate : Prop :=
  ∀ (raw : RawRecord) (s : State),
    decode (0x04#8 :: rawFields raw) = .instr (.updateRaw raw) ∧
    (s.constructed = false → exec (.updateRaw raw) s = .next (faulted .notConstructed 2 s)) ∧
    (s.constructed = true → raw.ticks.toNat = 0 → exec (.updateRaw raw) s = .next (faulted .zeroClock 4 s)) ∧
    (s.constructed = true → raw.ticks.toNat ≠ 0 → ∃ (m : Measurement) (v : Word32),
      exec (.mFromRaw raw) s = .next (answered (.measurement m) s) ∧
      exec (.updateRaw raw) s = exec (.update (measurementField m)) s ∧
      exec (.updateRaw raw) s = .next { s with lastKnownSpeed := v, prev := m, response := some (.ok .empty) })

/-- R206, R208: SPEED and STEPS, opcodes 0x05 and 0x07 in format F0, answer the last known speed and the step of the kept
Measurement and write nothing; before construction they take NOT_CONSTRUCTED. -/
def Obligations.SpeedAndStepsAnswerTheRegisters : Prop :=
  ∀ s : State, decode [0x05#8] = .instr .speed ∧ decode [0x07#8] = .instr .steps ∧
    (s.constructed = true → exec .speed s = .next (answered (.speed s.lastKnownSpeed) s) ∧
      exec .steps s = .next (answered (.step s.prev.step) s)) ∧
    (s.constructed = false → exec .speed s = .next (faulted .notConstructed 2 s) ∧
      exec .steps s = .next (faulted .notConstructed 2 s))

/-- R207: POSITION, opcode 0x06 in format F0, answers the sum that SS_ADD makes of the transition of the kept Measurement and
the displacement that SPEED_MUL gives the speed over the time since that transition, and writes nothing; before construction it
takes NOT_CONSTRUCTED. A stored Measurement is assumed valid (the invariant). -/
def Obligations.PositionIsTransitionPlusDisplacement : Prop :=
  ∀ s : State, decode [0x06#8] = .instr .position ∧
    (s.constructed = true → MeasurementValid s.prev → ∃ (t e p : Word32) (d : Word64),
      exec .position s = .next (answered (.position p) s) ∧
      exec (.mTransition (measurementField s.prev) s.cal) s = .next (answered (.substep t) s) ∧
      exec (.mTimeSince (measurementField s.prev)) s = .next (answered (.duration d) s) ∧
      exec (.speedMul s.lastKnownSpeed d) s = .next (answered (.delta e) s) ∧
      exec (.ssAdd t e) s = .next (answered (.substep p) s)) ∧
    (s.constructed = false → exec .position s = .next (faulted .notConstructed 2 s))

/-- R35 (e): after an UPDATE whose edge is at least the idle timeout old, SPEED answers exactly 0 and POSITION the transition
of that Measurement. -/
def Obligations.IdleTimeoutStopsTheEstimator : Prop :=
  ∀ (m : MeasurementRecord) (s : State), Good m → s.constructed = true →
    s.idleTimeout.toNat ≤ m.sampleInstant.toNat - m.stepInstant.toNat →
    ∃ t, exec (.update m) s = .next t ∧ stoppedRegime t = true ∧
      exec .speed t = .next (answered (.speed 0#32) t) ∧
      ∃ p, exec (.mTransition m s.cal) t = .next (answered (.substep p) t) ∧
        exec .position t = .next (answered (.position p) t)

/-- R216: with a well-formed calibration, an update leaves the Stopped regime exactly when it is in time, the step changed and
the exact speed is not 0. A stored Measurement is assumed valid (the invariant). -/
def Obligations.StoppedIsLeftOnlyByANonzeroExactSpeed : Prop :=
  ∀ (m : MeasurementRecord) (s t : State), stoppedRegime s = true → MeasurementValid s.prev → CalWellFormed s.cal →
    Good m → exec (.update m) s = .next t →
    (movingRegime t = true ↔
      m.sampleInstant.toNat - m.stepInstant.toNat < s.idleTimeout.toNat ∧ s.prev.step ≠ m.step ∧
      ∃ v : Word32, v ≠ 0#32 ∧
        exec (.mCalcSpeed (measurementField s.prev) m s.cal) s = .next (answered (.speed v) s))

/-- R209, R188: after an in-time UPDATE with the step unchanged whose bounds came from window B, with a well-formed
calibration, the position lies in the current step's range: at most the width of the step from its transition, on the side
the encoder moves. (R209 writes a strict upper bound; where the quotient is exact the bound itself is reached, log
entry 11.) -/
def Obligations.PositionStaysInTheStepAfterAWindowBClamp : Prop :=
  ∀ (m : MeasurementRecord) (s t : State) (p q : Word32) (b : Nat), s.constructed = true → MeasurementValid s.prev →
    CalWellFormed s.cal → Good m → s.prev.step = m.step → selectWindow s.prev (measurementOf m) = .edgeToNow b →
    m.sampleInstant.toNat - m.stepInstant.toNat < s.idleTimeout.toNat →
    exec (.update m) s = .next t → exec .position t = .next (answered (.position p) t) →
    exec (.mTransition m s.cal) s = .next (answered (.substep q) s) →
    (m.dir.toNat = 0 → 0 ≤ (p - q).toInt ∧ (p - q).toInt ≤ calWidth s.cal (phase m.step)) ∧
    (m.dir.toNat = 1 → -calWidth s.cal (phase m.step) ≤ (p - q).toInt ∧ (p - q).toInt ≤ 0)
end

