-- ==== Sys2Proof/Laws/Arith.lean ====
section
/-! SUPPORT. The spec lemmas of the arithmetic: what the primitives of rule R13 and the clamps come to. -/

namespace Sys2Proof.Machine

/-- `trunc_div` is the core library's division toward zero. -/
theorem truncDiv_eq_tdiv (n d : Int) : truncDiv n d = n.tdiv d := by
  unfold truncDiv
  split
  · rename_i hn
    rw [Int.tdiv_eq_ediv_of_nonneg hn]
  · rename_i hn
    have hn' : 0 ≤ -n := by omega
    rw [← Int.tdiv_eq_ediv_of_nonneg hn', Int.neg_tdiv, neg_neg]

theorem clampS32_bounds (q : Int) : -2 ^ 31 ≤ clampS32 q ∧ clampS32 q < 2 ^ 31 := by
  unfold clampS32 Config.speedMin Config.speedMax; omega

/-- A clamped quotient survives being stored in a Speed word. -/
theorem toInt_ofInt_clampS32 (q : Int) : (BitVec.ofInt 32 (clampS32 q)).toInt = clampS32 q := by
  have := clampS32_bounds q
  exact BitVec.toInt_ofInt_eq_self (by decide) (by omega) (by omega)

/-- `clamp` (rule R163) is "at most `hi`, then at least `lo`". -/
theorem clampSpeed_toInt (v lo hi : Word32) : (clampSpeed v lo hi).toInt = max lo.toInt (min v.toInt hi.toInt) := by
  unfold clampSpeed
  dsimp only
  repeat' split
  all_goals omega

/-- The three kinds of duration of `Speed::new` (rule R184). -/
theorem makeSpeed_unfit {delta : Word32} {t : Int} (h : t < 0 ∨ 2 ^ 32 ≤ t) : makeSpeed delta t = 0#32 := by
  unfold makeSpeed Config.divisorLimit; rw [if_pos h]; rfl

theorem makeSpeed_zero (delta : Word32) : makeSpeed delta 0 =
    if 0 < delta.toInt then speedGreatest else if delta.toInt < 0 then speedLeast else speedStopped := by
  simp [makeSpeed, Config.divisorLimit]

theorem makeSpeed_fit_toInt {delta : Word32} {t : Int} (h : 0 < t) (h' : t < 2 ^ 32) :
    (makeSpeed delta t).toInt = clampS32 ((delta.toInt * 2 ^ 20).tdiv t) := by
  unfold makeSpeed Config.divisorLimit Config.speedShift
  rw [if_neg (by omega), if_neg (by omega), truncDiv_eq_tdiv, toInt_ofInt_clampS32]

end Sys2Proof.Machine
end

