-- ==== Sys2Proof/Laws/Codec.lean ====
section
/-! SUPPORT. Each field reader takes back what the field's bytes say, whatever follows, and reads only what those bytes
say. -/

namespace Sys2Proof

@[simp] theorem bytes32_length (w : Word32) : (bytes32 w).length = 4 := rfl

@[simp] theorem bytes64_length (w : Word64) : (bytes64 w).length = 8 := rfl

@[simp] theorem bytesCal_length (c : Calibration) : (bytesCal c).length = 16 := rfl

@[simp] theorem bytesMeasurement_length (m : MeasurementRecord) : (bytesMeasurement m).length = 21 := rfl

@[simp] theorem bytesRaw_length (r : RawRecord) : (bytesRaw r).length = 20 := rfl

/-- The four bytes of a word, put together, are the word. -/
theorem append_extract32 (w : Word32) :
    w.extractLsb' 24 8 ++ w.extractLsb' 16 8 ++ w.extractLsb' 8 8 ++ w.extractLsb' 0 8 = w := by
  apply BitVec.eq_of_getLsbD_eq
  intro i hi
  simp only [BitVec.getLsbD_append, BitVec.getLsbD_extractLsb']
  split
  · simp [*]
  · split
    · have h : 8 + (i - 8) = i := by omega
      simp [*]
    · split
      · have h : 16 + (i - 8 - 8) = i := by omega
        simp [*]
      · have h : 24 + (i - 8 - 8 - 8) = i := by omega
        have h' : i - 8 - 8 - 8 < 8 := by omega
        simp [*]

/-- The two halves of a word64, put together, are the word64. -/
theorem append_extract64 (w : Word64) : w.extractLsb' 32 32 ++ w.extractLsb' 0 32 = w := by
  apply BitVec.eq_of_getLsbD_eq
  intro i hi
  simp only [BitVec.getLsbD_append, BitVec.getLsbD_extractLsb']
  split
  · simp [*]
  · have h : 32 + (i - 32) = i := by omega
    have h' : i - 32 < 32 := by omega
    simp [*]

/-- A word put together from four bytes has those bytes. -/
theorem bytes32_append (a b c d : Byte) : bytes32 (a ++ b ++ c ++ d) = [a, b, c, d] := by
  simp only [bytes32, List.cons.injEq, and_true]
  refine ⟨?_, ?_, ?_, ?_⟩ <;> apply BitVec.eq_of_getLsbD_eq <;> intro i hi <;>
    simp only [BitVec.getLsbD_append, BitVec.getLsbD_extractLsb', hi, decide_true, Bool.true_and]
  · rw [if_neg (by omega), if_neg (by omega), if_neg (by omega)]; congr 1; omega
  · rw [if_neg (by omega), if_neg (by omega), if_pos (by omega)]; congr 1; omega
  · rw [if_neg (by omega), if_pos (by omega)]; congr 1; omega
  · rw [if_pos (by omega)]; congr 1; omega

/-- A word64 put together from two words has their bytes. -/
theorem bytes64_append (hi lo : Word32) : bytes64 (hi ++ lo) = bytes32 hi ++ bytes32 lo := by
  have h₁ : (hi ++ lo).extractLsb' 32 32 = hi := by
    apply BitVec.eq_of_getLsbD_eq
    intro i h
    simp only [BitVec.getLsbD_append, BitVec.getLsbD_extractLsb', h, decide_true, Bool.true_and]
    rw [if_neg (by omega)]; congr 1; omega
  have h₂ : (hi ++ lo).extractLsb' 0 32 = lo := by
    apply BitVec.eq_of_getLsbD_eq
    intro i h
    simp only [BitVec.getLsbD_append, BitVec.getLsbD_extractLsb', h, decide_true, Bool.true_and]
    rw [if_pos (by omega)]; congr 1; omega
  rw [bytes64, h₁, h₂]

/-! Reading back what was written. -/

@[simp] theorem read8_cons (b : Byte) (rest : List Byte) : read8 (b :: rest) = some (b, rest) := rfl

@[simp] theorem read32_bytes32 (w : Word32) (rest : List Byte) : read32 (bytes32 w ++ rest) = some (w, rest) := by
  simp only [bytes32, List.cons_append, List.nil_append, read32]
  rw [append_extract32]

@[simp] theorem read64_bytes64 (w : Word64) (rest : List Byte) : read64 (bytes64 w ++ rest) = some (w, rest) := by
  simp [read64, bytes64, List.append_assoc, append_extract64]

@[simp] theorem readCal_bytesCal (c : Calibration) (rest : List Byte) :
    readCal (bytesCal c ++ rest) = some (c, rest) := by
  simp [readCal, bytesCal, List.append_assoc]

@[simp] theorem readMeasurement_bytesMeasurement (m : MeasurementRecord) (rest : List Byte) :
    readMeasurement (bytesMeasurement m ++ rest) = some (m, rest) := by
  simp [readMeasurement, bytesMeasurement, List.append_assoc]

@[simp] theorem readRaw_bytesRaw (r : RawRecord) (rest : List Byte) : readRaw (bytesRaw r ++ rest) = some (r, rest) := by
  simp [readRaw, bytesRaw, List.append_assoc]

/-! The same at the end of a message. -/

@[simp] theorem read32_bytes32_end (w : Word32) : read32 (bytes32 w) = some (w, []) := by
  simpa using read32_bytes32 w []

@[simp] theorem read64_bytes64_end (w : Word64) : read64 (bytes64 w) = some (w, []) := by
  simpa using read64_bytes64 w []

@[simp] theorem readCal_bytesCal_end (c : Calibration) : readCal (bytesCal c) = some (c, []) := by
  simpa using readCal_bytesCal c []

@[simp] theorem readMeasurement_bytesMeasurement_end (m : MeasurementRecord) :
    readMeasurement (bytesMeasurement m) = some (m, []) := by
  simpa using readMeasurement_bytesMeasurement m []

@[simp] theorem readRaw_bytesRaw_end (r : RawRecord) : readRaw (bytesRaw r) = some (r, []) := by
  simpa using readRaw_bytesRaw r []

/-! What a reader took was there. -/

theorem read8_some {bs rest : List Byte} {b : Byte} (h : read8 bs = some (b, rest)) : bs = b :: rest := by
  cases bs with
  | nil => simp [read8] at h
  | cons a bs => simpa [read8] using h

theorem read32_some {bs rest : List Byte} {w : Word32} (h : read32 bs = some (w, rest)) : bs = bytes32 w ++ rest := by
  match bs, h with
  | a :: b :: c :: d :: tail, h =>
    simp only [read32, Option.some.injEq, Prod.mk.injEq] at h
    obtain ⟨rfl, rfl⟩ := h
    rw [bytes32_append]; rfl

theorem read64_some {bs rest : List Byte} {w : Word64} (h : read64 bs = some (w, rest)) : bs = bytes64 w ++ rest := by
  simp only [read64, Option.bind_eq_bind, Option.bind_eq_some_iff, Prod.exists, Option.pure_def, Option.some.injEq,
    Prod.mk.injEq] at h
  obtain ⟨hi, bs₁, h₁, lo, bs₂, h₂, rfl, rfl⟩ := h
  rw [read32_some h₁, read32_some h₂, bytes64_append, List.append_assoc]

theorem readCal_some {bs rest : List Byte} {c : Calibration} (h : readCal bs = some (c, rest)) :
    bs = bytesCal c ++ rest := by
  simp only [readCal, Option.bind_eq_bind, Option.bind_eq_some_iff, Prod.exists, Option.pure_def, Option.some.injEq,
    Prod.mk.injEq] at h
  obtain ⟨c0, bs₀, h₀, c1, bs₁, h₁, c2, bs₂, h₂, c3, bs₃, h₃, rfl, rfl⟩ := h
  rw [read32_some h₀, read32_some h₁, read32_some h₂, read32_some h₃]
  simp [bytesCal, List.append_assoc]

theorem readMeasurement_some {bs rest : List Byte} {m : MeasurementRecord} (h : readMeasurement bs = some (m, rest)) :
    bs = bytesMeasurement m ++ rest := by
  simp only [readMeasurement, Option.bind_eq_bind, Option.bind_eq_some_iff, Prod.exists, Option.pure_def,
    Option.some.injEq, Prod.mk.injEq] at h
  obtain ⟨w, bs₀, h₀, dir, bs₁, h₁, a, bs₂, h₂, b, bs₃, h₃, rfl, rfl⟩ := h
  rw [read32_some h₀, read8_some h₁, read64_some h₂, read64_some h₃]
  simp [bytesMeasurement, List.append_assoc]

theorem readRaw_some {bs rest : List Byte} {r : RawRecord} (h : readRaw bs = some (r, rest)) :
    bs = bytesRaw r ++ rest := by
  simp only [readRaw, Option.bind_eq_bind, Option.bind_eq_some_iff, Prod.exists, Option.pure_def, Option.some.injEq,
    Prod.mk.injEq] at h
  obtain ⟨a, bs₀, h₀, b, bs₁, h₁, c, bs₂, h₂, d, bs₃, h₃, rfl, rfl⟩ := h
  rw [read32_some h₀, read32_some h₁, read64_some h₂, read32_some h₃]
  simp [bytesRaw, List.append_assoc]

end Sys2Proof
end

