-- ==== Sys2Proof/Laws/State.lean ====
section
/-! SUPPORT. What each named update of the state does to each field. -/

namespace Sys2Proof.Machine

/-! `answer` -/

@[simp] theorem answer_cal (r : Result) (s : State) : (answer r s).cal = s.cal := rfl
@[simp] theorem answer_idleTimeout (r : Result) (s : State) : (answer r s).idleTimeout = s.idleTimeout := rfl
@[simp] theorem answer_lastKnownSpeed (r : Result) (s : State) : (answer r s).lastKnownSpeed = s.lastKnownSpeed := rfl
@[simp] theorem answer_prev (r : Result) (s : State) : (answer r s).prev = s.prev := rfl
@[simp] theorem answer_constructed (r : Result) (s : State) : (answer r s).constructed = s.constructed := rfl
@[simp] theorem answer_faults (r : Result) (s : State) : (answer r s).faults = s.faults := rfl
@[simp] theorem answer_inputs (r : Result) (s : State) : (answer r s).inputs = s.inputs := rfl
@[simp] theorem answer_response (r : Result) (s : State) : (answer r s).response = some (.ok r) := rfl

/-! `takeFault` -/

@[simp] theorem takeFault_cal (c : FaultCode) (s : State) : (takeFault c s).cal = s.cal := rfl
@[simp] theorem takeFault_idleTimeout (c : FaultCode) (s : State) : (takeFault c s).idleTimeout = s.idleTimeout := rfl
@[simp] theorem takeFault_lastKnownSpeed (c : FaultCode) (s : State) : (takeFault c s).lastKnownSpeed = s.lastKnownSpeed := rfl
@[simp] theorem takeFault_prev (c : FaultCode) (s : State) : (takeFault c s).prev = s.prev := rfl
@[simp] theorem takeFault_constructed (c : FaultCode) (s : State) : (takeFault c s).constructed = s.constructed := rfl
@[simp] theorem takeFault_faults (c : FaultCode) (s : State) : (takeFault c s).faults = s.faults ||| faultBit c := rfl
@[simp] theorem takeFault_inputs (c : FaultCode) (s : State) : (takeFault c s).inputs = s.inputs := rfl
@[simp] theorem takeFault_response (c : FaultCode) (s : State) : (takeFault c s).response = some (.fault c) := rfl

/-! `construct` -/

@[simp] theorem construct_cal (cal : Calibration) (idle : Word64) (m : Measurement) (s : State) : (construct cal idle m s).cal = cal := rfl
@[simp] theorem construct_idleTimeout (cal : Calibration) (idle : Word64) (m : Measurement) (s : State) : (construct cal idle m s).idleTimeout = idle := rfl
@[simp] theorem construct_lastKnownSpeed (cal : Calibration) (idle : Word64) (m : Measurement) (s : State) : (construct cal idle m s).lastKnownSpeed = 0#32 := rfl
@[simp] theorem construct_prev (cal : Calibration) (idle : Word64) (m : Measurement) (s : State) : (construct cal idle m s).prev = m := rfl
@[simp] theorem construct_constructed (cal : Calibration) (idle : Word64) (m : Measurement) (s : State) : (construct cal idle m s).constructed = true := rfl
@[simp] theorem construct_faults (cal : Calibration) (idle : Word64) (m : Measurement) (s : State) : (construct cal idle m s).faults = s.faults := rfl
@[simp] theorem construct_inputs (cal : Calibration) (idle : Word64) (m : Measurement) (s : State) : (construct cal idle m s).inputs = s.inputs := rfl
@[simp] theorem construct_response (cal : Calibration) (idle : Word64) (m : Measurement) (s : State) : (construct cal idle m s).response = s.response := rfl

/-! `replaceEstimate` -/

@[simp] theorem replaceEstimate_cal (v : Word32) (m : Measurement) (s : State) : (replaceEstimate v m s).cal = s.cal := rfl
@[simp] theorem replaceEstimate_idleTimeout (v : Word32) (m : Measurement) (s : State) : (replaceEstimate v m s).idleTimeout = s.idleTimeout := rfl
@[simp] theorem replaceEstimate_lastKnownSpeed (v : Word32) (m : Measurement) (s : State) : (replaceEstimate v m s).lastKnownSpeed = v := rfl
@[simp] theorem replaceEstimate_prev (v : Word32) (m : Measurement) (s : State) : (replaceEstimate v m s).prev = m := rfl
@[simp] theorem replaceEstimate_constructed (v : Word32) (m : Measurement) (s : State) : (replaceEstimate v m s).constructed = s.constructed := rfl
@[simp] theorem replaceEstimate_faults (v : Word32) (m : Measurement) (s : State) : (replaceEstimate v m s).faults = s.faults := rfl
@[simp] theorem replaceEstimate_inputs (v : Word32) (m : Measurement) (s : State) : (replaceEstimate v m s).inputs = s.inputs := rfl
@[simp] theorem replaceEstimate_response (v : Word32) (m : Measurement) (s : State) : (replaceEstimate v m s).response = s.response := rfl

/-! `takeInput` -/

@[simp] theorem takeInput_cal (s : State) : (takeInput s).cal = s.cal := rfl
@[simp] theorem takeInput_idleTimeout (s : State) : (takeInput s).idleTimeout = s.idleTimeout := rfl
@[simp] theorem takeInput_lastKnownSpeed (s : State) : (takeInput s).lastKnownSpeed = s.lastKnownSpeed := rfl
@[simp] theorem takeInput_prev (s : State) : (takeInput s).prev = s.prev := rfl
@[simp] theorem takeInput_constructed (s : State) : (takeInput s).constructed = s.constructed := rfl
@[simp] theorem takeInput_faults (s : State) : (takeInput s).faults = s.faults := rfl
@[simp] theorem takeInput_inputs (s : State) : (takeInput s).inputs = s.inputs.tail := rfl
@[simp] theorem takeInput_response (s : State) : (takeInput s).response = s.response := rfl

/-! `presentMessage` -/

@[simp] theorem presentMessage_cal (msg : List Byte) (s : State) : (presentMessage msg s).cal = s.cal := rfl
@[simp] theorem presentMessage_idleTimeout (msg : List Byte) (s : State) : (presentMessage msg s).idleTimeout = s.idleTimeout := rfl
@[simp] theorem presentMessage_lastKnownSpeed (msg : List Byte) (s : State) : (presentMessage msg s).lastKnownSpeed = s.lastKnownSpeed := rfl
@[simp] theorem presentMessage_prev (msg : List Byte) (s : State) : (presentMessage msg s).prev = s.prev := rfl
@[simp] theorem presentMessage_constructed (msg : List Byte) (s : State) : (presentMessage msg s).constructed = s.constructed := rfl
@[simp] theorem presentMessage_faults (msg : List Byte) (s : State) : (presentMessage msg s).faults = s.faults := rfl
@[simp] theorem presentMessage_inputs (msg : List Byte) (s : State) : (presentMessage msg s).inputs = .command msg :: s.inputs := rfl
@[simp] theorem presentMessage_response (msg : List Byte) (s : State) : (presentMessage msg s).response = s.response := rfl

/-! `resetEvent` -/

@[simp] theorem resetEvent_cal (s : State) : (resetEvent s).cal = State.reset.cal := rfl
@[simp] theorem resetEvent_idleTimeout (s : State) : (resetEvent s).idleTimeout = State.reset.idleTimeout := rfl
@[simp] theorem resetEvent_lastKnownSpeed (s : State) : (resetEvent s).lastKnownSpeed = State.reset.lastKnownSpeed := rfl
@[simp] theorem resetEvent_prev (s : State) : (resetEvent s).prev = State.reset.prev := rfl
@[simp] theorem resetEvent_constructed (s : State) : (resetEvent s).constructed = State.reset.constructed := rfl
@[simp] theorem resetEvent_faults (s : State) : (resetEvent s).faults = State.reset.faults := rfl
@[simp] theorem resetEvent_inputs (s : State) : (resetEvent s).inputs = s.inputs := rfl
@[simp] theorem resetEvent_response (s : State) : (resetEvent s).response = State.reset.response := rfl

/-! `State.reset` -/

@[simp] theorem reset_constructed : State.reset.constructed = false := rfl
@[simp] theorem reset_faults : State.reset.faults = 0#8 := rfl
@[simp] theorem reset_inputs : State.reset.inputs = [] := rfl
@[simp] theorem reset_response : State.reset.response = none := rfl

end Sys2Proof.Machine
end

