-- ==== Sys2Proof/Laws/Ops.lean ====
section
/-! SUPPORT. What the shared operations can do, said once, and the inversion lemmas of `exec` and `step`: every next state of
a command is a fault entry, an answer, a construction or an update. -/

namespace Sys2Proof.Machine

theorem raise_next_iff (c : FaultCode) (s t : State) : raise c s = .next t ↔ t = takeFault c s := by
  constructor
  · rintro ⟨⟩; rfl
  · rintro rfl; rfl

theorem reply_next_iff (r : Result) (s t : State) : reply r s = .next t ↔ t = answer r s := by
  constructor
  · rintro ⟨⟩; rfl
  · rintro rfl; rfl

/-- Everything a command can do. -/
inductive Effect (s : State) : State → Prop where
  /-- It takes a fault (rule R236). -/
  | fault (c : FaultCode) : Effect s (takeFault c s)
  /-- It answers and writes no register. -/
  | answer (r : Result) : Effect s (answer r s)
  /-- It constructs, from a state that is not constructed, with a valid Measurement (rules R200, R201). -/
  | construct (cal : Calibration) (idle : Word64) (m : Measurement) (fresh : s.constructed = false)
      (valid : MeasurementValid m) : Effect s (Machine.answer .empty (Machine.construct cal idle m s))
  /-- It updates a constructed state with a valid Measurement (rules R203, R204). -/
  | update (m : Measurement) (built : s.constructed = true) (valid : MeasurementValid m) :
      Effect s (Machine.answer .empty (updateWith m s))

theorem raise_effect {c : FaultCode} {s t : State} (h : raise c s = .next t) : Effect s t := by
  rw [raise_next_iff] at h; subst h; exact .fault c

theorem reply_effect {r : Result} {s t : State} (h : reply r s = .next t) : Effect s t := by
  rw [reply_next_iff] at h; subst h; exact .answer r

theorem fromRaw_valid (r : RawRecord) : MeasurementValid (fromRaw r) := by
  have h : satSubU64 r.sampleInstant.toNat (ddDurationUs r.ddRaw r.ticks).toNat ≤ r.sampleInstant.toNat := by
    unfold satSubU64; split <;> omega
  have := r.sampleInstant.isLt
  simp only [MeasurementValid, fromRaw, BitVec.toNat_ofNat]
  rwa [Nat.mod_eq_of_lt (by omega)]

theorem validRecord_iff (m : MeasurementRecord) : validRecord m = true ↔ MeasurementValid (fieldMeasurement m) := by
  simp [validRecord, MeasurementValid, fieldMeasurement]

theorem reservedDir_eq_not_wf (dir : Byte) : reservedDir dir = !dirFieldWf dir := by
  revert dir; decide

/-- What a command can do (rules R200 to R208, R236): the inversion lemma of `exec`. -/
theorem exec_effect {i : Instr} {s t : State} (h : exec i s = .next t) : Effect s t := by
  cases i <;>
    simp only [exec, execNew, execNewRaw, execUpdate, execUpdateRaw, execSpeed, execPosition, execSteps, execStepLower,
      execStepUpper, execStepRange, execStepComp, execSsAdd, execSsSub, execDdDecode, execDdEncode, execDirInvert,
      execSpeedNew, execSpeedMul, execMTransition, execMCalcSpeed, execMCalcBounds, execMEstimate, execMFromRaw,
      execMTimeSince] at h <;>
    (repeat' split at h) <;>
    first
    | exact raise_effect h
    | exact reply_effect h
    | skip
  case new cal idle m hr hc hv =>
    rw [reply_next_iff] at h; subst h
    exact .construct _ _ _ (by simpa using hc) ((validRecord_iff _).1 (by simpa using hv))
  case newRaw cal idle raw hc hv =>
    rw [reply_next_iff] at h; subst h
    exact .construct _ _ _ (by simpa using hc) (fromRaw_valid _)
  case update m hr hc hv =>
    rw [reply_next_iff] at h; subst h
    exact .update _ (by simpa using hc) ((validRecord_iff _).1 (by simpa using hv))
  case updateRaw raw hc hv =>
    rw [reply_next_iff] at h; subst h
    exact .update _ (by simpa using hc) (fromRaw_valid _)

/-- No command reads or writes what the host has pending (rules R59, R61). -/
theorem exec_inputs {i : Instr} {s t : State} (h : exec i s = .next t) (xs : List HostInput) :
    exec i { s with inputs := xs } = .next { t with inputs := xs } := by
  cases i <;>
    simp only [exec, execNew, execNewRaw, execUpdate, execUpdateRaw, execSpeed, execPosition, execSteps, execStepLower,
      execStepUpper, execStepRange, execStepComp, execSsAdd, execSsSub, execDdDecode, execDdEncode, execDirInvert,
      execSpeedNew, execSpeedMul, execMTransition, execMCalcSpeed, execMCalcBounds, execMEstimate, execMFromRaw,
      execMTimeSince, raise, reply] at h ⊢ <;>
    (repeat' split at h) <;>
    cases h <;>
    simp_all [answer, takeFault, construct, updateWith, replaceEstimate, updatedSpeed, positionOf]

/-! What a step does, by what stands at the port. -/

theorem step_idle {s : State} (h : s.inputs = []) : step s = .next s := by
  simp [step, portEvent, h]

theorem step_reset {s : State} {rest : List HostInput} (h : s.inputs = .reset :: rest) :
    step s = .next { State.reset with inputs := rest } := by
  simp [step, portEvent, h, resetEvent, takeInput]

theorem takeInput_eq {s : State} {x : HostInput} {rest : List HostInput} (h : s.inputs = x :: rest) :
    takeInput s = { s with inputs := rest } := by
  simp [takeInput, h]

/-- What a step can do (rules R59, R64, R260): the inversion lemma of `step`. -/
theorem step_effect {s t : State} (h : step s = .next t) :
    (s.inputs = [] ∧ t = s) ∨
      (∃ rest, s.inputs = .reset :: rest ∧ t = { State.reset with inputs := rest }) ∨
      (∃ msg rest, s.inputs = .command msg :: rest ∧ Effect { s with inputs := rest } t) := by
  match hs : s.inputs with
  | [] =>
    rw [step_idle hs] at h; cases h
    exact .inl ⟨rfl, rfl⟩
  | .reset :: rest =>
    rw [step_reset hs] at h; cases h
    exact .inr (.inl ⟨rest, rfl, rfl⟩)
  | .command msg :: rest =>
    refine .inr (.inr ⟨msg, rest, rfl, ?_⟩)
    have ht := takeInput_eq hs
    match hd : decode msg with
    | .instr i =>
      simp only [step, portEvent, hs, hd, ht] at h
      exact exec_effect h
    | .rejected why =>
      simp only [step, portEvent, hs, hd, ht, execMalformed] at h
      exact raise_effect h

theorem core_run_succ (M : Host.Core) {k : Nat} {s t : M.State} (h : M.step s = .next t) :
    M.run (k + 1) s = M.run k t := by
  rw [Host.Core.run, h]

/-- The first of several steps of a run. -/
theorem run_succ {k : Nat} {s t : State} (h : step s = .next t) :
    Host.Core.run Sys2Proof.core (k + 1) s = Host.Core.run Sys2Proof.core k t :=
  core_run_succ Sys2Proof.core h

/-- `withFetchWord` presents its message at the port (the host's fetch). -/
theorem withFetchWord_inputs (s : State) (nbits w : Nat) :
    (s.withFetchWord nbits w).inputs = .command (tableMessage nbits w) :: s.inputs := rfl

end Sys2Proof.Machine
end

