-- ==== Sys2Proof/Laws/PerInstr.lean ====
section
/-! SUPPORT. Facts proved instruction by instruction. Family EncodedLength: the message of a command has the length that rule
R91 gives its opcode byte. -/

namespace Sys2Proof.Laws.EncodedLength

/-- The message of a command is an opcode byte that is not reserved and as many bytes as rule R91 gives that opcode. -/
def Statement (i : Instr) : Prop := ∃ op body, encode i = op :: body ∧ commandLength op = some (encode i).length

theorem new (cal : Calibration) (idle : Word64) (m : MeasurementRecord) : Statement (.new cal idle m) := ⟨_, _, rfl, rfl⟩
theorem newRaw (cal : Calibration) (idle : Word64) (raw : RawRecord) : Statement (.newRaw cal idle raw) := ⟨_, _, rfl, rfl⟩
theorem update (m : MeasurementRecord) : Statement (.update m) := ⟨_, _, rfl, rfl⟩
theorem updateRaw (raw : RawRecord) : Statement (.updateRaw raw) := ⟨_, _, rfl, rfl⟩
theorem speed : Statement .speed := ⟨_, _, rfl, rfl⟩
theorem position : Statement .position := ⟨_, _, rfl, rfl⟩
theorem steps : Statement .steps := ⟨_, _, rfl, rfl⟩
theorem stepLower (step : Word32) (cal : Calibration) : Statement (.stepLower step cal) := ⟨_, _, rfl, rfl⟩
theorem stepUpper (step : Word32) (cal : Calibration) : Statement (.stepUpper step cal) := ⟨_, _, rfl, rfl⟩
theorem stepRange (step : Word32) (cal : Calibration) : Statement (.stepRange step cal) := ⟨_, _, rfl, rfl⟩
theorem stepComp (a b : Word32) : Statement (.stepComp a b) := ⟨_, _, rfl, rfl⟩
theorem ssAdd (a b : Word32) : Statement (.ssAdd a b) := ⟨_, _, rfl, rfl⟩
theorem ssSub (a b : Word32) : Statement (.ssSub a b) := ⟨_, _, rfl, rfl⟩
theorem ddDecode (ddRaw ticks : Word32) : Statement (.ddDecode ddRaw ticks) := ⟨_, _, rfl, rfl⟩
theorem ddEncode (dir : Byte) (iterations : Word32) : Statement (.ddEncode dir iterations) := ⟨_, _, rfl, rfl⟩
theorem dirInvert (dir : Byte) : Statement (.dirInvert dir) := ⟨_, _, rfl, rfl⟩
theorem speedNew (delta : Word32) (duration : Word64) : Statement (.speedNew delta duration) := ⟨_, _, rfl, rfl⟩
theorem speedMul (speed : Word32) (duration : Word64) : Statement (.speedMul speed duration) := ⟨_, _, rfl, rfl⟩
theorem mTransition (m : MeasurementRecord) (cal : Calibration) : Statement (.mTransition m cal) := ⟨_, _, rfl, rfl⟩
theorem mCalcSpeed (prev curr : MeasurementRecord) (cal : Calibration) : Statement (.mCalcSpeed prev curr cal) := ⟨_, _, rfl, rfl⟩
theorem mCalcBounds (prev curr : MeasurementRecord) (cal : Calibration) : Statement (.mCalcBounds prev curr cal) := ⟨_, _, rfl, rfl⟩
theorem mEstimate (last : Word32) (prev curr : MeasurementRecord) (cal : Calibration) : Statement (.mEstimate last prev curr cal) := ⟨_, _, rfl, rfl⟩
theorem mFromRaw (raw : RawRecord) : Statement (.mFromRaw raw) := ⟨_, _, rfl, rfl⟩
theorem mTimeSince (m : MeasurementRecord) : Statement (.mTimeSince m) := ⟨_, _, rfl, rfl⟩

end Sys2Proof.Laws.EncodedLength
end

