-- ==== Sys2Proof/Tests/Slice0.lean ====
section
/-! SUPPORT. The model's own tests. Expected values are those of spec/95 (the section or program stands in the comment) or are
worked out by hand from the rules. Four parts: well-formedness, decoding, one or two commands each, and for every obligation
with hypotheses a state and operands that meet them. -/

namespace Sys2Proof.Tests

open Sys2Proof.Machine Sys2Proof.Claims

/-! Helpers. -/

/-- The `n` bytes of a hexadecimal string, as spec/95 prints messages. -/
def bytesOf : Nat → Nat → List Byte
  | 0, _ => []
  | n + 1, v => BitVec.ofNat 8 (v / 256 ^ n) :: bytesOf n v

def stateOf (o : Host.Outcome State Fault Refusal) : Option State :=
  match o with
  | .next t => some t
  | .fault _ => none
  | .refused _ => none

/-- The response a command ends with. -/
def responseOf (o : Host.Outcome State Fault Refusal) : Option Response := (stateOf o).bind (·.response)

/-- `LAST_KNOWN_SPEED`, `PREV` and `FAULTS` after a command. -/
def estimateOf (o : Host.Outcome State Fault Refusal) : Option (Word32 × Measurement × BitVec 8) :=
  (stateOf o).map fun t => (t.lastKnownSpeed, t.prev, t.faults)

/-- The step that takes a message presented at the port. -/
def afterMessage (msg : List Byte) (s : State) : Host.Outcome State Fault Refusal := step (presentMessage msg s)

def defaultCal : Calibration := ⟨0#32, 64#32, 128#32, 192#32⟩

/-- A Measurement record. -/
def rec4 (step : Int) (dir : Byte) (edge sample : Nat) : MeasurementRecord :=
  ⟨BitVec.ofInt 32 step, dir, BitVec.ofNat 64 edge, BitVec.ofNat 64 sample⟩

/-- A constructed state with the default calibration and a timeout of 30 ms, as in programs P1 and P3. -/
def built (speed : Int) (prev : Measurement) : State :=
  { State.reset with
    cal := defaultCal, idleTimeout := 30000#64, lastKnownSpeed := BitVec.ofInt 32 speed, prev := prev, constructed := true }

/-- Program P1 after row 3. -/
def p1 : State := built 13421 ⟨4#32, .clockwise, 30000#64, 30000#64⟩

/-- Program P1 after row 6: stopped. -/
def p1Stopped : State := built 0 ⟨4#32, .clockwise, 30000#64, 60000#64⟩

/-! Well-formedness: each Direction field with a reserved bit is refused (rule R89), and passes with both codes. -/

theorem test_wf_new : (Instr.new defaultCal 0#64 (rec4 0 2#8 0 0)).wf = false := by decide
theorem test_wf_update : (Instr.update (rec4 0 0x80#8 0 0)).wf = false := by decide
theorem test_wf_ddEncode : (Instr.ddEncode 3#8 1#32).wf = false := by decide
theorem test_wf_dirInvert : (Instr.dirInvert 0xFF#8).wf = false := by decide
theorem test_wf_mTransition : (Instr.mTransition (rec4 0 4#8 0 0) defaultCal).wf = false := by decide
theorem test_wf_mCalcSpeed_prev : (Instr.mCalcSpeed (rec4 0 2#8 0 0) (rec4 0 0#8 0 0) defaultCal).wf = false := by decide
theorem test_wf_mCalcSpeed_curr : (Instr.mCalcSpeed (rec4 0 0#8 0 0) (rec4 0 2#8 0 0) defaultCal).wf = false := by decide
theorem test_wf_mCalcBounds_prev : (Instr.mCalcBounds (rec4 0 2#8 0 0) (rec4 0 0#8 0 0) defaultCal).wf = false := by decide
theorem test_wf_mCalcBounds_curr : (Instr.mCalcBounds (rec4 0 0#8 0 0) (rec4 0 2#8 0 0) defaultCal).wf = false := by decide
theorem test_wf_mEstimate_prev : (Instr.mEstimate 0#32 (rec4 0 2#8 0 0) (rec4 0 0#8 0 0) defaultCal).wf = false := by decide
theorem test_wf_mEstimate_curr : (Instr.mEstimate 0#32 (rec4 0 0#8 0 0) (rec4 0 2#8 0 0) defaultCal).wf = false := by decide
theorem test_wf_mTimeSince : (Instr.mTimeSince (rec4 0 0x40#8 0 0)).wf = false := by decide
theorem test_wf_accepts : (Instr.dirInvert 0#8).wf = true ∧ (Instr.dirInvert 1#8).wf = true := by decide

/-! Decoding: one message of every command, written out from rules R84 to R91 (most of them are spec/95's own). -/

/-- P4 row 4. -/
theorem test_decode_new :
    decode (bytesOf 46 0x01000000000000004000000080000000C00000000000007530000000000000000000000007D000000000000003E8) =
      .instr (.new defaultCal 30000#64 (rec4 0 0#8 2000 1000)) := by decide

/-- P3 row 0. -/
theorem test_decode_newRaw :
    decode (bytesOf 45 0x02000000000000004000000080000000C00000000000007530FFFE88660000000000000000000186A00000007D) =
      .instr (.newRaw defaultCal 30000#64 ⟨0xFFFE8866#32, 0#32, 100000#64, 125#32⟩) := by decide

/-- P4 row 10: the reserved bit is kept. -/
theorem test_decode_update :
    decode (bytesOf 22 0x0300000001020000000000000FA00000000000001388) = .instr (.update (rec4 1 2#8 4000 5000)) := by decide

/-- P3 row 1. -/
theorem test_decode_updateRaw :
    decode (bytesOf 21 0x04FFFF4433FFFFFFFF000000000001ADB00000007D) =
      .instr (.updateRaw ⟨0xFFFF4433#32, 0xFFFFFFFF#32, 110000#64, 125#32⟩) := by decide

/-- P1, end. -/
theorem test_decode_queries :
    decode [0x05#8] = .instr .speed ∧ decode [0x06#8] = .instr .position ∧ decode [0x07#8] = .instr .steps := by decide

/-- S8. -/
theorem test_decode_stepLower :
    decode (bytesOf 21 0x1000000003000000000000004000000080000000C0) = .instr (.stepLower 3#32 defaultCal) := by decide

/-- P5 row 2. -/
theorem test_decode_stepUpper :
    decode (bytesOf 21 0x11FFFFFFFF000000000000004000000080000000C0) =
      .instr (.stepUpper 0xFFFFFFFF#32 defaultCal) := by decide

/-- S9. -/
theorem test_decode_stepRange :
    decode (bytesOf 21 0x12FFFFFFFC000000000000004000000080000000C0) =
      .instr (.stepRange 0xFFFFFFFC#32 defaultCal) := by decide

/-- P5 row 3. -/
theorem test_decode_stepComp : decode (bytesOf 9 0x130000000100000000) = .instr (.stepComp 1#32 0#32) := by decide

/-- Rule R90: 0x14, `a`, `b`. -/
theorem test_decode_ssAdd : decode (bytesOf 9 0x1400000064FFFFFF00) = .instr (.ssAdd 100#32 0xFFFFFF00#32) := by decide

/-- P5 row 4. -/
theorem test_decode_ssSub : decode (bytesOf 9 0x15000000C000000100) = .instr (.ssSub 192#32 256#32) := by decide

/-- Section 2.4. -/
theorem test_decode_ddDecode : decode (bytesOf 9 0x20FFFFFFF60000007D) = .instr (.ddDecode 0xFFFFFFF6#32 125#32) := by decide

/-- P5 row 5. -/
theorem test_decode_ddEncode : decode (bytesOf 6 0x21010000000A) = .instr (.ddEncode 1#8 10#32) := by decide

/-- Rule R90: 0x22, `dir`. -/
theorem test_decode_dirInvert : decode [0x22#8, 0x01#8] = .instr (.dirInvert 1#8) := by decide

/-- Section 2.5. -/
theorem test_decode_speedNew :
    decode (bytesOf 13 0x300000004000000000000032C8) = .instr (.speedNew 64#32 13000#64) := by decide

/-- Section 2.6. -/
theorem test_decode_speedMul :
    decode (bytesOf 13 0x310000346D0000000000002328) = .instr (.speedMul 13421#32 9000#64) := by decide

/-- Rule R90: 0x40, the Measurement, the calibration. -/
theorem test_decode_mTransition :
    decode (0x40#8 :: bytesOf 21 0xFFFFFFFF0100000000000000050000000000000009 ++
      bytesOf 16 0x000000000000004000000080000000C0) = .instr (.mTransition (rec4 (-1) 1#8 5 9) defaultCal) := by decide

/-- Rule R90: 0x41, `prev`, `curr`, the calibration; the records of P2 row 3. -/
theorem test_decode_mCalcSpeed :
    decode (0x41#8 :: bytesOf 21 0x000000050000000000000084D00000000000009C40 ++
      bytesOf 21 0x0000000700000000000000BF68000000000000C350 ++
      bytesOf 16 0x000000000000004000000080000000C0) =
      .instr (.mCalcSpeed (rec4 5 0#8 34000 40000) (rec4 7 0#8 49000 50000) defaultCal) := by decide

/-- Section 2.9. -/
theorem test_decode_mCalcBounds :
    decode (0x42#8 :: bytesOf 21 0x000000000000000000000000000000000000000000 ++
      bytesOf 21 0x000000020000000000000027100000000000002710 ++ bytesOf 16 0x000000000000004000000080000000C0) =
      .instr (.mCalcBounds (rec4 0 0#8 0 0) (rec4 2 0#8 10000 10000) defaultCal) := by decide

/-- Rule R90: 0x43, `last_speed`, `prev`, `curr`, the calibration; the records of P1 row 4. -/
theorem test_decode_mEstimate :
    decode (0x43#8 :: bytesOf 4 0x0000346D ++ bytesOf 21 0x000000040000000000000075300000000000007530 ++
      bytesOf 21 0x000000040000000000000075300000000000009C40 ++ bytesOf 16 0x000000000000004000000080000000C0) =
      .instr (.mEstimate 13421#32 (rec4 4 0#8 30000 30000) (rec4 4 0#8 30000 40000) defaultCal) := by decide

/-- P5 row 9. -/
theorem test_decode_mFromRaw :
    decode (bytesOf 21 0x447FFFDA71FFFFFFFF00000000000222E00000007D) =
      .instr (.mFromRaw ⟨0x7FFFDA71#32, 0xFFFFFFFF#32, 140000#64, 125#32⟩) := by decide

/-- P5 row 10. -/
theorem test_decode_mTimeSince :
    decode (bytesOf 22 0x4500000004000000000000007530000000000000EA60) =
      .instr (.mTimeSince (rec4 4 0#8 30000 60000)) := by decide

theorem test_decode_rejects :
    decode [] = .rejected .emptyMessage ∧ decode [0x08#8] = .rejected (.reservedOpcode 8#8) ∧
      decode [0x05#8, 0#8] = .rejected (.wrongLength 5#8 2) ∧ decode [0x22#8] = .rejected (.wrongLength 0x22#8 1) := by decide

/-- The opcode table numbers the opcode byte bits 7:0; operand bytes it gives no bits are 0. -/
theorem test_decodeTableWord :
    decodeTableWord 8 0x06 = some .position ∧ decodeTableWord 8 0x14 = some (.ssAdd 0#32 0#32) ∧
      decodeTableWord 16 0x0122 = some (.dirInvert 1#8) ∧ decodeTableWord 8 0x16 = none := by decide

theorem test_withFetchWord :
    responseOf (step (State.reset.withFetchWord 16 0x0122)) = some (.ok (.dir .clockwise)) := by decide

/-! The commands. -/

/-- P4 rows 5 and 6, from `FAULTS = 0x34`. -/
theorem test_new : estimateOf (exec (.new defaultCal 30000#64 (rec4 0 0#8 1000 1000)) { State.reset with faults := 0x34#8 }) =
    some (0#32, ⟨0#32, .clockwise, 1000#64, 1000#64⟩, 0x34#8) := by decide
theorem test_new_twice : responseOf (exec (.new defaultCal 30000#64 (rec4 0 0#8 2000 1000)) p1) =
    some (.fault .alreadyConstructed) := by decide

/-- P3 row 0; P4 row 3. -/
theorem test_newRaw :
    estimateOf (exec (.newRaw defaultCal 30000#64 ⟨0xFFFE8866#32, 0#32, 100000#64, 125#32⟩) State.reset) =
      some (0#32, ⟨0#32, .counterClockwise, 90000#64, 100000#64⟩, 0#8) := by decide
theorem test_newRaw_zeroClock :
    estimateOf (exec (.newRaw defaultCal 30000#64 ⟨0x7FFFFFFF#32, 0#32, 1000#64, 0#32⟩) { State.reset with faults := 4#8 }) =
      some (0#32, State.reset.prev, 0x14#8) := by decide

/-- P1 row 4; P4 row 7. -/
theorem test_update : estimateOf (exec (.update (rec4 4 0#8 30000 40000)) p1) =
    some (6710#32, ⟨4#32, .clockwise, 30000#64, 40000#64⟩, 0#8) := by decide
theorem test_update_bad : estimateOf (exec (.update (rec4 1 0#8 9000 5000)) p1) =
    some (13421#32, p1.prev, 0x20#8) := by decide

/-- P3 rows 4 and 6. -/
theorem test_updateRaw_reversal :
    estimateOf (exec (.updateRaw ⟨0x7FFFDA71#32, 0xFFFFFFFF#32, 140000#64, 125#32⟩)
      (built (-5162) ⟨0xFFFFFFFE#32, .counterClockwise, 118000#64, 130000#64⟩)) =
      some (0#32, ⟨0xFFFFFFFF#32, .clockwise, 139001#64, 140000#64⟩, 0#8) := by decide
theorem test_updateRaw_anchor :
    estimateOf (exec (.updateRaw ⟨0x80000000#32, 0xFFFFFFFF#32, 180000#64, 125#32⟩) p1) =
      some (0#32, ⟨0xFFFFFFFF#32, .counterClockwise, 0#64, 180000#64⟩, 0#8) := by decide

/-- P1 rows 3 and 5; P4 row 1. -/
theorem test_speed : responseOf (exec .speed p1) = some (.ok (.speed 0x346D#32)) := by decide
theorem test_speed_early : estimateOf (exec .speed State.reset) = some (0#32, State.reset.prev, 0x04#8) := by decide
theorem test_position : responseOf (exec .position (built 3355 ⟨4#32, .clockwise, 30000#64, 50000#64⟩)) =
    some (.ok (.position 0x13F#32)) := by decide
/-- P3 row 3: the speed is negative and the product is floored. -/
theorem test_position_negative :
    responseOf (exec .position (built (-5162) ⟨0xFFFFFFFE#32, .counterClockwise, 118000#64, 130000#64⟩)) =
      some (.ok (.position 0xFFFFFF84#32)) := by decide
theorem test_steps : responseOf (exec .steps p1) = some (.ok (.step 4#32)) := by decide

/-- Section 2.1. -/
theorem test_stepLower : responseOf (exec (.stepLower 0xFFFFFFFB#32 defaultCal) State.reset) =
    some (.ok (.substep 0xFFFFFEC0#32)) := by decide
theorem test_stepUpper : responseOf (exec (.stepUpper 0xFFFFFFFF#32 ⟨0#32, 60#32, 128#32, 200#32⟩) State.reset) =
    some (.ok (.substep 0#32)) := by decide
theorem test_stepRange : responseOf (exec (.stepRange 0xFFFFFFFC#32 defaultCal) State.reset) =
    some (.ok (.range 0xFFFFFF00#32 0xFFFFFF40#32)) := by decide
theorem test_stepRange_illFormed : responseOf (exec (.stepRange 2#32 ⟨10#32, 5#32, 0#32, 250#32⟩) State.reset) =
    some (.ok (.range 0#32 250#32)) := by decide

/-- Section 2.2. -/
theorem test_stepComp : responseOf (exec (.stepComp 5#32 0x80000005#32) State.reset) = some (.ok (.code .antipodal)) := by decide
theorem test_stepComp_wrap : responseOf (exec (.stepComp 0x80000000#32 0x7FFFFFFF#32) State.reset) =
    some (.ok (.code .counterClockwise)) := by decide

/-- Section 2.3. -/
theorem test_ssAdd : responseOf (exec (.ssAdd 0x64#32 0xFFFFFF00#32) State.reset) =
    some (.ok (.substep 0xFFFFFF64#32)) := by decide
theorem test_ssSub : responseOf (exec (.ssSub 0x64#32 0xFFFFFF00#32) State.reset) = some (.ok (.substep 0x164#32)) := by decide

/-- Section 2.4. -/
theorem test_ddDecode : responseOf (exec (.ddDecode 0x6C4EC4ED#32 1#32) State.reset) =
    some (.ok (.dirDuration .clockwise 4294967287#32)) := by decide
theorem test_ddDecode_anchor : responseOf (exec (.ddDecode 0x80000000#32 133#32) State.reset) =
    some (.ok (.dirDuration .counterClockwise 32292987#32)) := by decide
theorem test_ddEncode : responseOf (exec (.ddEncode 0#8 96154#32) State.reset) = some (.ok (.ddRaw 0x7FFE8866#32)) := by decide
theorem test_ddEncode_beyond : responseOf (exec (.ddEncode 1#8 0xFFFFFFFF#32) State.reset) = some (.ok (.ddRaw 1#32)) := by decide
theorem test_dirInvert : responseOf (exec (.dirInvert 0#8) State.reset) = some (.ok (.dir .counterClockwise)) := by decide
theorem test_dirInvert_reserved : responseOf (exec (.dirInvert 2#8) State.reset) = some (.fault .illegalCommand) := by decide

/-- Sections 2.5 and 2.6. -/
theorem test_speedNew : responseOf (exec (.speedNew 0xFFFFFFC0#32 3#64) State.reset) =
    some (.ok (.speed 0xFEAAAAAB#32)) := by decide
theorem test_speedNew_clamped : responseOf (exec (.speedNew 0xFFFFF7FF#32 1#64) State.reset) =
    some (.ok (.speed 0x80000000#32)) := by decide
theorem test_speedMul : responseOf (exec (.speedMul (BitVec.ofInt 32 (-1000)) 5000#64) State.reset) =
    some (.ok (.delta 0xFFFFFFFB#32)) := by decide
theorem test_speedMul_wraps : responseOf (exec (.speedMul 0x7FFFFFFF#32 18446744073709551615#64) State.reset) =
    some (.ok (.delta 0xFFFFF800#32)) := by decide

/-- Section 2.7. -/
theorem test_mTransition : responseOf (exec (.mTransition (rec4 (-1) 1#8 5 9) defaultCal) State.reset) =
    some (.ok (.substep 0#32)) := by decide
theorem test_mTimeSince : responseOf (exec (.mTimeSince (rec4 (-1) 1#8 5 9)) State.reset) = some (.ok (.duration 4#64)) := by decide

/-- P2 row 3; rule R157 with the newer edge stamped earlier. -/
theorem test_mCalcSpeed : responseOf (exec (.mCalcSpeed (rec4 5 0#8 34000 40000) (rec4 7 0#8 49000 50000) defaultCal) State.reset) =
    some (.ok (.speed 8947#32)) := by decide
theorem test_mCalcSpeed_backward :
    responseOf (exec (.mCalcSpeed (rec4 5 0#8 34000 40000) (rec4 7 0#8 33999 50000) defaultCal) State.reset) =
      some (.ok (.speed 0#32)) := by decide

/-- Section 2.9: equal windows use B, a strictly larger A wins. -/
theorem test_mCalcBounds_equalWindows :
    responseOf (exec (.mCalcBounds (rec4 4 0#8 0 10000) (rec4 5 0#8 15000 20000) defaultCal) State.reset) =
      some (.ok (.bounds 0#32 13421#32)) := by decide
theorem test_mCalcBounds_windowA :
    responseOf (exec (.mCalcBounds (rec4 5 1#8 0 10000) (rec4 4 1#8 15001 20000) defaultCal) State.reset) =
      some (.ok (.bounds (BitVec.ofInt 32 (-13419)) 0#32)) := by decide

/-- Section 2.10, rows 3 and 12. -/
theorem test_mEstimate_clamped :
    responseOf (exec (.mEstimate (BitVec.ofInt 32 (-500)) (rec4 4 0#8 30000 30000) (rec4 4 0#8 30000 40000) defaultCal) State.reset) =
      some (.ok (.speed 0#32)) := by decide
theorem test_mEstimate_exact :
    responseOf (exec (.mEstimate 999999#32 (rec4 1 0#8 10000 10000) (rec4 2 0#8 20000 20000) defaultCal) State.reset) =
      some (.ok (.speed 6710#32)) := by decide

/-- Section 2.11, rows 4 and 3. -/
theorem test_mFromRaw : responseOf (exec (.mFromRaw ⟨0x80000000#32, 7#32, 50000000#64, 125#32⟩) State.reset) =
    some (.ok (.measurement ⟨7#32, .counterClockwise, 15640262#64, 50000000#64⟩)) := by decide
theorem test_mFromRaw_saturates : responseOf (exec (.mFromRaw ⟨0x7FFE8866#32, 7#32, 5000#64, 125#32⟩) State.reset) =
    some (.ok (.measurement ⟨7#32, .clockwise, 0#64, 5000#64⟩)) := by decide

/-! Whole transactions: the message in, the response bytes out (P1, P4, P5), and the reset event. -/

theorem test_port_position :
    (responseOf (afterMessage [0x06#8] (built 1917 ⟨5#32, .clockwise, 65000#64, 80000#64⟩))).map responseBytes =
      some (bytesOf 5 0x000000015B) := by decide
theorem test_port_mFromRaw :
    (responseOf (afterMessage (bytesOf 21 0x447FFFDA71FFFFFFFF00000000000222E00000007D) State.reset)).map responseBytes =
      some (bytesOf 22 0x00FFFFFFFF000000000000021EF900000000000222E0) := by decide
/-- P4 row 9. -/
theorem test_port_reserved : estimateOf (afterMessage [0x08#8] { p1 with faults := 0x3C#8 }) =
    some (13421#32, p1.prev, 0x3E#8) := by decide
theorem test_reset_event : stateOf (step { p1 with faults := 0x3E#8, inputs := [.reset] }) = some State.reset := by decide

/-! Witnesses: for every obligation with hypotheses, a state and operands that meet them, at the ends of each clause's range. -/

theorem witness_DecodedMessageIsItsEncoding : decode [0x13#8, 0#8, 0#8, 0#8, 1#8, 0#8, 0#8, 0#8, 0#8] =
    .instr (.stepComp 1#32 0#32) := by decide

theorem witness_ReservedOpcodeTakesIllegalCommand :
    (∀ op ∈ [0x00#8, 0x08#8, 0x0F#8, 0x16#8, 0x1F#8, 0x23#8, 0x2F#8, 0x32#8, 0x3F#8, 0x46#8, 0xFF#8],
      ¬ opcodeInTable op.toNat) ∧
    (presentMessage [0x46#8, 7#8] p1).inputs = .command (0x46#8 :: [7#8]) :: [] := by
  unfold opcodeInTable; decide

theorem witness_WrongLengthTakesIllegalCommand :
    [0#8].length + 1 ≠ (layout .steps).2.2 ∧ ([] : List Byte).length + 1 ≠ (layout (.dirInvert 0#8)).2.2 ∧
    (presentMessage [0x07#8, 0#8] p1).inputs = .command (BitVec.ofNat 8 (layout .steps).1 :: [0#8]) :: [] ∧
    (presentMessage [0x22#8] p1).inputs = .command (BitVec.ofNat 8 (layout (.dirInvert 0#8)).1 :: []) :: [] := by decide

theorem witness_ResponseIsStatusThenResultFields :
    (∃ t, exec (.mFromRaw ⟨0x80000000#32, 7#32, 50#64, 125#32⟩) State.reset = .next t) ∧
    (∃ t, exec .speed State.reset = .next t) := ⟨⟨_, rfl⟩, ⟨_, rfl⟩⟩

theorem witness_StepRunsTheDecodedCommand :
    (presentMessage [0x07#8] p1).inputs = .command [0x07#8] :: [] ∧ decode [0x07#8] = .instr .steps := by decide

theorem witness_ResetClearsTheFlagsAndAnIdlePortChangesNothing :
    { p1 with faults := 0x3E#8, inputs := [.reset, .command []] }.inputs = .reset :: [.command []] ∧
    p1.inputs = [] := by decide

theorem witness_EveryCommandCompletesAndIsAnswered :
    (presentMessage [] p1).inputs = .command [] :: [] ∧ (presentMessage [0x06#8] p1).inputs = .command [0x06#8] :: [] := by
  decide

theorem witness_EveryStepKeepsTheInvariant :
    StateInvariant (presentMessage [0x07#8] p1) ∧ (∃ t, step (presentMessage [0x07#8] p1) = .next t) ∧
    StateInvariant { p1 with faults := 0x3E#8, response := some (.fault .badMeasurement), inputs := [.reset] } :=
  ⟨by decide, ⟨_, rfl⟩, by decide⟩

theorem witness_UnspecifiedRegistersAreNeverObserved :
    SpecifiedAgree (presentMessage [0x05#8] State.reset)
      { presentMessage [0x05#8] State.reset with lastKnownSpeed := 7#32, idleTimeout := 9#64, cal := defaultCal } ∧
    SpecifiedAgree p1 p1 := by decide

theorem witness_FaultsAreRaisedExactlyByTheirCauses :
    causeIllegal (.update (rec4 0 2#8 0 0)) ∧ causeIllegal (.dirInvert 0xFF#8) ∧
    (¬ causeIllegal .speed ∧ readsEstimator .speed ∧ State.reset.constructed = false) ∧
    (¬ causeIllegal (.new defaultCal 0#64 (rec4 0 1#8 0 0)) ∧ constructs (.new defaultCal 0#64 (rec4 0 1#8 0 0)) ∧
      p1.constructed = true) ∧
    (¬ causeIllegal (.ddDecode 0#32 0#32) ∧ ¬ (readsEstimator (.ddDecode 0#32 0#32) ∧ p1.constructed = false) ∧
      ¬ (constructs (.ddDecode 0#32 0#32) ∧ p1.constructed = true) ∧ causeZeroClock (.ddDecode 0#32 0#32)) ∧
    (¬ causeIllegal (.mTimeSince (rec4 0 1#8 1 0)) ∧ ¬ (readsEstimator (.mTimeSince (rec4 0 1#8 1 0)) ∧ p1.constructed = false) ∧
      ¬ (constructs (.mTimeSince (rec4 0 1#8 1 0)) ∧ p1.constructed = true) ∧
      causeBadMeasurement (.mTimeSince (rec4 0 1#8 1 0))) ∧
    (¬ causeIllegal (.update (rec4 0 1#8 0 0)) ∧ ¬ (readsEstimator (.update (rec4 0 1#8 0 0)) ∧ p1.constructed = false) ∧
      ¬ (constructs (.update (rec4 0 1#8 0 0)) ∧ p1.constructed = true) ∧ ¬ causeZeroClock (.update (rec4 0 1#8 0 0)) ∧
      ¬ causeBadMeasurement (.update (rec4 0 1#8 0 0))) := by
  simp [causeIllegal, directionsOf, measurementsOf, readsEstimator, constructs, causeZeroClock, ticksOf,
    causeBadMeasurement, rec4, State.reset, p1, built]

theorem witness_FaultChangesOnlyItsStickyBit :
    (∃ t, step (presentMessage [0x00#8] p1) = .next t ∧ t.response = some (.fault .illegalCommand)) ∧
    (∃ t, step (presentMessage [0x07#8] p1) = .next t ∧ t.response = some (.ok (.step 4#32))) :=
  ⟨⟨_, rfl, by decide⟩, ⟨_, rfl, by decide⟩⟩

theorem witness_ConfigurationIsImmutableOnceConstructed :
    (∃ t, step (presentMessage (encode (.update (rec4 4 0#8 30000 40000))) p1) = .next t) ∧ p1.constructed = true ∧
    (∃ t, step (presentMessage (encode (.new defaultCal 30000#64 (rec4 0 0#8 0 0))) State.reset) = .next t ∧
      t.constructed = true ∧ t.cal ≠ State.reset.cal) := ⟨⟨_, rfl⟩, by decide, ⟨_, rfl, by decide, by decide⟩⟩

theorem witness_FunctionUnitsReadAndWriteNoRegister :
    functionUnit (.ssAdd 1#32 2#32) ∧ functionUnit (.dirInvert 2#8) ∧
    (∃ v, exec (.ssAdd 1#32 2#32) p1 = .next (answered v p1)) ∧
    (∃ c, exec (.dirInvert 2#8) p1 = .next (faulted c (faultNumber c) p1)) :=
  ⟨by simp [functionUnit, readsEstimator, constructs], by simp [functionUnit, readsEstimator, constructs], ⟨_, rfl⟩,
    ⟨.illegalCommand, rfl⟩⟩

theorem witness_QueriesAndFunctionUnitsAreIdempotent :
    functionUnit (.ssAdd 1#32 2#32) ∧
    (∃ t, exec (.ssAdd 1#32 2#32) p1 = .next t ∧ t.response = some (.ok (.substep 3#32))) ∧
    (∃ t, exec .speed p1 = .next t ∧ t.response = some (.ok (.speed 13421#32))) ∧
    (∃ t, exec .position p1 = .next t ∧ t.response = some (.ok (.position 0x100#32))) ∧
    (∃ t, exec .steps p1 = .next t ∧ t.response = some (.ok (.step 4#32))) :=
  ⟨by simp [functionUnit, readsEstimator, constructs], ⟨_, rfl, by decide⟩, ⟨_, rfl, by decide⟩, ⟨_, rfl, by decide⟩,
    ⟨_, rfl, by decide⟩⟩

theorem witness_UpdateIgnoresFunctionUnitCommandsBefore :
    functionUnit (.ssAdd 1#32 2#32) ∧
    (∃ s₁ t t₁, exec (.ssAdd 1#32 2#32) p1 = .next s₁ ∧ exec (.update (rec4 4 0#8 30000 40000)) p1 = .next t ∧
      exec (.update (rec4 4 0#8 30000 40000)) s₁ = .next t₁) :=
  ⟨by simp [functionUnit, readsEstimator, constructs], _, _, _, rfl, rfl, rfl⟩

theorem witness_WellFormedWidthsSumTo256AsR113Infers :
    CalWellFormed defaultCal ∧ CalWellFormed ⟨0#32, 0x7FFFFFFF#32, 0xFFFFFFFE#32, 256#32⟩ := by decide

theorem witness_RangeWidthIsThePhaseWidth :
    CalProper defaultCal ∧ CalProper ⟨0#32, 0#32, 0#32, 256#32⟩ := by unfold CalProper; decide

theorem witness_StepCompFollowsTheShorterWay :
    ((7#32).toNat + 2 ^ 32 - (7#32).toNat) % 2 ^ 32 = 0 ∧
    (0 < ((0#32).toNat + 2 ^ 32 - (0xFFFFFFFF#32).toNat) % 2 ^ 32 ∧
      ((0#32).toNat + 2 ^ 32 - (0xFFFFFFFF#32).toNat) % 2 ^ 32 < 2 ^ 31) ∧
    ((0x7FFFFFFF#32).toNat + 2 ^ 32 - (0#32).toNat) % 2 ^ 32 < 2 ^ 31 ∧
    ((0x80000005#32).toNat + 2 ^ 32 - (5#32).toNat) % 2 ^ 32 = 2 ^ 31 ∧
    2 ^ 31 < ((0x80000001#32).toNat + 2 ^ 32 - (0#32).toNat) % 2 ^ 32 ∧
    2 ^ 31 < ((0xFFFFFFFF#32).toNat + 2 ^ 32 - (0#32).toNat) % 2 ^ 32 := by decide

theorem witness_SubstepSumAndDifferenceAreModular :
    ((0#32).toNat : Int) = (((0x80000000#32).toNat : Int) + -2 ^ 31) % 2 ^ 32 ∧
    ((0x7FFFFFFF#32).toNat : Int) = (((0#32).toNat : Int) + (2 ^ 31 - 1)) % 2 ^ 32 := by decide

theorem witness_RawInvertsStepNew :
    (-2 ^ 31 ≤ (-2 ^ 31 : Int) ∧ (-2 ^ 31 : Int) < 2 ^ 31) ∧ -2 ^ 31 ≤ (2 ^ 31 - 1 : Int) ∧ (2 ^ 31 - 1 : Int) < 2 ^ 31 := by
  decide

theorem witness_DirInvertExchangesTheDirections :
    (0#8).toNat < 2 ∧ (1#8).toNat < 2 ∧ 2 ≤ (2#8).toNat ∧ 2 ≤ (0xFF#8).toNat := by decide

theorem witness_DdEncodeIsAnchorLessIterations :
    ((1#8).toNat < 2 ∧ 1 ≤ (1#32).toNat ∧ (1#32).toNat ≤ 2 ^ 31) ∧
    ((0#8).toNat < 2 ∧ 1 ≤ (0x80000000#32).toNat ∧ (0x80000000#32).toNat ≤ 2 ^ 31) ∧ 2 ≤ (2#8).toNat := by decide

theorem witness_DdDecodeGivesDirectionAndDuration :
    ((1#32).toNat ≠ 0 ∧ (0x80000000#32).toInt < 0 ∧ (0xFFFFFFFF#32).toInt < 0) ∧
    ((0xFFFFFFFF#32).toNat ≠ 0 ∧ 0 ≤ (0#32).toInt ∧ 0 ≤ (0x7FFFFFFF#32).toInt) ∧ (0#32).toNat = 0 := by decide

theorem witness_DirectionAndIterationsRoundTrip :
    (1 ≤ (1#32).toNat ∧ (1#32).toNat ≤ 2 ^ 31) ∧ (1 ≤ (0x80000000#32).toNat ∧ (0x80000000#32).toNat ≤ 2 ^ 31) ∧
    (0#32).toNat = 0 := by decide

theorem witness_DecodedDurationSaturates :
    (1#32).toNat ≠ 0 ∧ 330382100 = iterations 0x6C4EC4EC#32 ∧ iterations 0x6C4EC4ED#32 + 1 = 330382100 ∧
    330382100 ≤ iterations 0x80000000#32 ∧ 330382100 ≤ iterations 0#32 := by decide

theorem witness_SpeedNewIsTheClampedQuotient :
    2 ^ 32 ≤ (4294967296#64).toNat ∧ (0#64).toNat = 0 ∧ 0 < (1#32).toInt ∧ (0xFFFFFFFF#32).toInt < 0 ∧ (0#32).toInt = 0 ∧
    0 < (1#64).toNat ∧ (4294967295#64).toNat < 2 ^ 32 ∧ (-1 : Int) < 0 := by decide

theorem witness_SpeedNewIsOddMonotoneAndSigned :
    ((0 : Int) < 1 ∧ (1 : Int) < 2 ^ 32 ∧ (2047#32).toInt ≠ -2 ^ 31 ∧ |(2047#32).toInt| < 2048 * 1) ∧
    ((0xFFFFF801#32).toInt ≠ -2 ^ 31 ∧ |(0xFFFFF801#32).toInt| < 2048 * 1) ∧
    ((0 : Int) < 2 ^ 32 - 1 ∧ (2 ^ 32 - 1 : Int) < 2 ^ 32) ∧ (0x80000000#32).toInt ≤ (0x7FFFFFFF#32).toInt ∧
    0 < (1#32).toInt ∧ (0x80000000#32).toInt < 0 ∧ (0#32).toInt = 0 := by decide

theorem witness_SpeedRoundTripLosesAtMostItsTruncation :
    (0 < (1#64).toNat ∧ (1#64).toNat < 2 ^ 32 ∧ 0 ≤ (2047#32).toInt ∧ (2047#32).toInt < 2048 * (1#64).toNat) ∧
    ((4294967295#64).toNat < 2 ^ 32 ∧ 0 ≤ (0#32).toInt ∧ (0x7FFFFFFF#32).toInt < 2048 * (4294967295#64).toNat) := by decide

/-- 10000 microseconds before the sample: exactly back to 0, and one microsecond past it. -/
theorem witness_MFromRawSubtractsTheElapsedTime :
    (125#32).toNat ≠ 0 ∧ (ddDurationUs 0x7FFE8866#32 125#32).toNat ≤ (10000#64).toNat ∧
    (9999#64).toNat < (ddDurationUs 0x7FFE8866#32 125#32).toNat ∧ (0#32).toNat = 0 := by decide

theorem witness_MTransitionIsTheBoundTheEdgeEntered :
    (Good (rec4 4 0#8 5 5) ∧ (rec4 4 0#8 5 5).dir.toNat = 0) ∧ (Good (rec4 (-1) 1#8 5 9) ∧ (rec4 (-1) 1#8 5 9).dir.toNat = 1) := by
  unfold Good; decide

theorem witness_MTimeSinceIsTheExactDifference :
    Good (rec4 4 0#8 5 5) ∧ Good ⟨0#32, 1#8, 0#64, 18446744073709551615#64⟩ := by unfold Good; decide

theorem witness_MCalcSpeedIsTheExactEdgeToEdgeSpeed :
    Good (rec4 5 0#8 34000 40000) ∧ Good (rec4 7 0#8 33999 50000) ∧ Good (rec4 7 0#8 34000 50000) ∧
    (rec4 7 0#8 33999 50000).stepInstant.toNat < (rec4 5 0#8 34000 40000).stepInstant.toNat ∧
    (rec4 5 0#8 34000 40000).stepInstant.toNat + (0#64).toNat = (rec4 7 0#8 34000 50000).stepInstant.toNat := by
  unfold Good; decide

/-- Windows of 5001 and 4999, of 5000 and 5000, and no window A at all. -/
theorem witness_MCalcBoundsUsesTheLargerWindow :
    Good (rec4 4 0#8 0 10000) ∧ Good (rec4 5 0#8 15001 20000) ∧ Good (rec4 5 0#8 15000 20000) ∧ Good (rec4 4 0#8 10000 10000) ∧
    (10000 + (5001#64).toNat = 15001 ∧ 15001 + (4999#64).toNat = 20000 ∧ (4999#64).toNat < (5001#64).toNat) ∧
    (15000 + (5000#64).toNat = 20000 ∧ 15000 ≤ 10000 + (5000#64).toNat) ∧
    (10000 + (0#64).toNat = 10000 ∧ 10000 ≤ 10000 + (0#64).toNat) := by unfold Good; decide

theorem witness_BoundsAreOrderedForAWellFormedCalibration :
    CalWellFormed defaultCal ∧ calWidth defaultCal (phase 4#32) ≤ 256 ∧
    selectWindow ⟨4#32, .clockwise, 0#64, 10000#64⟩ ⟨5#32, .clockwise, 15001#64, 20000#64⟩ = .pollToEdge 5001 ∧
    (transition ⟨5#32, .clockwise, 15001#64, 20000#64⟩ defaultCal - upperBound 4#32 defaultCal).toInt + 256 ≤ 2 ^ 31 - 1 ∧
    selectWindow ⟨4#32, .clockwise, 0#64, 10000#64⟩ ⟨5#32, .clockwise, 15000#64, 20000#64⟩ = .edgeToNow 5000 := by decide

theorem witness_ZeroLiesInTheBoundsOfAnUnchangedStep :
    CalWellFormed ⟨0#32, 0#32, 0#32, 256#32⟩ ∧
    (⟨5#32, .clockwise, 0#64, 1000#64⟩ : Measurement).step = (⟨5#32, .counterClockwise, 9000#64, 10000#64⟩ : Measurement).step := by
  decide

theorem witness_MEstimateIsExactOrClampedIntoTheBounds :
    Good (rec4 1 0#8 10000 10000) ∧ Good (rec4 2 0#8 20000 20000) ∧ Good (rec4 1 0#8 10000 20000) ∧
    (rec4 1 0#8 10000 10000).step ≠ (rec4 2 0#8 20000 20000).step ∧
    (rec4 1 0#8 10000 10000).step = (rec4 1 0#8 10000 20000).step := by unfold Good; decide

theorem witness_EstimateLiesWithinOrderedBounds :
    (rec4 4 0#8 30000 30000).step = (rec4 4 0#8 30000 40000).step ∧
    exec (.mCalcBounds (rec4 4 0#8 30000 30000) (rec4 4 0#8 30000 40000) defaultCal) State.reset =
      .next (answered (.bounds 0#32 6710#32) State.reset) ∧
    exec (.mEstimate 13421#32 (rec4 4 0#8 30000 30000) (rec4 4 0#8 30000 40000) defaultCal) State.reset =
      .next (answered (.speed 6710#32) State.reset) ∧ (0#32).toInt ≤ (6710#32).toInt :=
  ⟨by decide, rfl, rfl, by decide⟩

theorem witness_NewConstructsOnce :
    2 ≤ (rec4 0 2#8 0 0).dir.toNat ∧ ((rec4 0 1#8 0 0).dir.toNat < 2 ∧ p1.constructed = true) ∧
    ((rec4 0 1#8 1 0).dir.toNat < 2 ∧ State.reset.constructed = false ∧
      (rec4 0 1#8 1 0).sampleInstant.toNat < (rec4 0 1#8 1 0).stepInstant.toNat) ∧
    Good (rec4 0 1#8 1 1) := by unfold Good; decide

theorem witness_NewRawIsFromRawThenNew :
    p1.constructed = true ∧ State.reset.constructed = false ∧ (0#32).toNat = 0 ∧ (1#32).toNat ≠ 0 := by decide

/-- The two last lines are a time of 29999 and of 30000 since the edge, at a timeout of 30000. -/
theorem witness_UpdateReplacesSpeedAndMeasurement :
    2 ≤ (rec4 0 2#8 0 0).dir.toNat ∧ ((rec4 0 1#8 0 0).dir.toNat < 2 ∧ State.reset.constructed = false) ∧
    ((rec4 0 1#8 1 0).dir.toNat < 2 ∧ p1.constructed = true ∧
      (rec4 0 1#8 1 0).sampleInstant.toNat < (rec4 0 1#8 1 0).stepInstant.toNat) ∧
    (Good (rec4 4 0#8 30000 60000) ∧ p1.idleTimeout.toNat ≤ 60000 - 30000) ∧
    (Good (rec4 4 0#8 30000 59999) ∧ MeasurementValid p1.prev ∧ 59999 - 30000 < p1.idleTimeout.toNat) := by
  unfold Good; decide

theorem witness_UpdateRawIsFromRawThenUpdate :
    State.reset.constructed = false ∧ p1.constructed = true ∧ (0#32).toNat = 0 ∧ (1#32).toNat ≠ 0 := by decide

theorem witness_SpeedAndStepsAnswerTheRegisters : p1.constructed = true ∧ State.reset.constructed = false := by decide

theorem witness_PositionIsTransitionPlusDisplacement :
    p1.constructed = true ∧ MeasurementValid p1.prev ∧ State.reset.constructed = false := by decide

theorem witness_IdleTimeoutStopsTheEstimator :
    Good (rec4 4 0#8 30000 60000) ∧ p1.constructed = true ∧
    p1.idleTimeout.toNat ≤ (rec4 4 0#8 30000 60000).sampleInstant.toNat - (rec4 4 0#8 30000 60000).stepInstant.toNat := by
  unfold Good; decide

/-- P1 row 7: the update restarts the encoder. -/
theorem witness_StoppedIsLeftOnlyByANonzeroExactSpeed :
    stoppedRegime p1Stopped = true ∧ MeasurementValid p1Stopped.prev ∧ CalWellFormed p1Stopped.cal ∧
    Good (rec4 5 0#8 65000 70000) ∧
    (∃ t, exec (.update (rec4 5 0#8 65000 70000)) p1Stopped = .next t ∧ movingRegime t = true) :=
  ⟨by decide, by decide, by decide, by unfold Good; decide, _, rfl, by decide⟩

/-- P1 row 4 (Clockwise, no window A), the same with a CounterClockwise edge, and an edge after the previous poll whose window A
of 5000 is as large as window B: the tie goes to B (rule R159). -/
theorem witness_PositionStaysInTheStepAfterAWindowBClamp :
    p1.constructed = true ∧ MeasurementValid p1.prev ∧ CalWellFormed p1.cal ∧
    (∀ m ∈ [rec4 4 0#8 30000 40000, rec4 4 1#8 30000 40000, rec4 4 0#8 35000 40000],
      Good m ∧ p1.prev.step = m.step ∧ m.sampleInstant.toNat - m.stepInstant.toNat < p1.idleTimeout.toNat) ∧
    selectWindow p1.prev (measurementOf (rec4 4 0#8 30000 40000)) = .edgeToNow 10000 ∧
    selectWindow p1.prev (measurementOf (rec4 4 1#8 30000 40000)) = .edgeToNow 10000 ∧
    selectWindow p1.prev (measurementOf (rec4 4 0#8 35000 40000)) = .edgeToNow 5000 ∧
    (∃ t p q, exec (.update (rec4 4 0#8 35000 40000)) p1 = .next t ∧ exec .position t = .next (answered (.position p) t) ∧
      exec (.mTransition (rec4 4 0#8 35000 40000) p1.cal) p1 = .next (answered (.substep q) p1)) ∧
    (∃ t p q, exec (.update (rec4 4 1#8 30000 40000)) p1 = .next t ∧ exec .position t = .next (answered (.position p) t) ∧
      exec (.mTransition (rec4 4 1#8 30000 40000) p1.cal) p1 = .next (answered (.substep q) p1)) :=
  ⟨by decide, by decide, by decide, by unfold Good; decide, by decide, by decide, by decide, ⟨_, _, _, rfl, rfl, rfl⟩,
    ⟨_, _, _, rfl, rfl, rfl⟩⟩

end Sys2Proof.Tests
end

/-! The rules of the state: what a response, a command and a step do to a block, and what they depend on. -/

namespace Sys2Proof.Proofs

open Sys2Proof.Machine Sys2Proof.Claims

/-! Ending a command with a response. -/

/-- A command ends with this response and writes no register beyond the sticky bit of its fault (rules R85, R236). -/
def respond (r : Response) (s : State) : State :=
  match r with
  | .ok v => answer v s
  | .fault c => takeFault c s

theorem answer_eq_answered (v : Result) (s : State) : answer v s = answered v s := rfl

theorem takeFault_eq_faulted (c : FaultCode) (s : State) : takeFault c s = faulted c (faultNumber c) s := by
  cases c <;> rfl

@[simp] theorem respond_constructed (r : Response) (s : State) : (respond r s).constructed = s.constructed := by
  cases r <;> rfl

/-! What a step does with a message. -/

theorem step_instr {s : State} {msg : List Byte} {rest : List HostInput} {i : Instr}
    (hs : s.inputs = .command msg :: rest) (hd : decode msg = .instr i) : step s = exec i { s with inputs := rest } := by
  simp [step, portEvent, hs, hd, takeInput_eq hs]

theorem step_rejected {s : State} {msg : List Byte} {rest : List HostInput} {why : Rejection}
    (hs : s.inputs = .command msg :: rest) (hd : decode msg = .rejected why) :
    step s = .next (takeFault .illegalCommand { s with inputs := rest }) := by
  simp [step, portEvent, hs, hd, takeInput_eq hs, execMalformed, raise]

theorem step_command_effect {s t : State} {msg : List Byte} {rest : List HostInput}
    (hs : s.inputs = .command msg :: rest) (h : step s = .next t) : Effect { s with inputs := rest } t := by
  cases hd : decode msg with
  | instr i => exact exec_effect ((step_instr hs hd).symm.trans h)
  | rejected why =>
    cases (step_rejected hs hd).symm.trans h
    exact .fault _

/-! Function units: one response for all states (rules R32, R37). -/

/-- A meaning that gives one response in every state and does nothing else. -/
def RespondsAlike (f : State → Host.Outcome State Fault Refusal) : Prop := ∃ r, ∀ s, f s = .next (respond r s)

theorem respondsAlike_raise (c : FaultCode) : RespondsAlike (raise c) := ⟨.fault c, fun _ => rfl⟩

theorem respondsAlike_reply (v : Result) : RespondsAlike (reply v) := ⟨.ok v, fun _ => rfl⟩

/-- A check of the operands alone keeps the response independent of the state. -/
theorem respondsAlike_ite {p : Prop} [Decidable p] {f g : State → Host.Outcome State Fault Refusal}
    (hf : RespondsAlike f) (hg : RespondsAlike g) : RespondsAlike fun s => if p then f s else g s := by
  by_cases hp : p
  · simpa [hp] using hf
  · simpa [hp] using hg

/-- One check of the operands, then the answer. -/
theorem respondsAlike_checked {p : Prop} [Decidable p] (c : FaultCode) (v : Result) :
    RespondsAlike fun s => if p then raise c s else reply v s :=
  respondsAlike_ite (respondsAlike_raise c) (respondsAlike_reply v)

/-- Two checks of the operands in the order of rule R172, then the answer. -/
theorem respondsAlike_checkedTwice {p q : Prop} [Decidable p] [Decidable q] (c d : FaultCode) (v : Result) :
    RespondsAlike fun s => if p then raise c s else if q then raise d s else reply v s :=
  respondsAlike_ite (respondsAlike_raise c) (respondsAlike_checked d v)

theorem exec_functionUnit_respondsAlike {i : Instr} (h : functionUnit i) : RespondsAlike (exec i) := by
  obtain ⟨notReads, notConstructs⟩ := h
  cases i with
  | new cal idle m => exact absurd (.inl ⟨cal, idle, m, rfl⟩) notConstructs
  | newRaw cal idle raw => exact absurd (.inr ⟨cal, idle, raw, rfl⟩) notConstructs
  | update m => exact absurd (.inl ⟨m, rfl⟩) notReads
  | updateRaw raw => exact absurd (.inr (.inl ⟨raw, rfl⟩)) notReads
  | speed => exact absurd (.inr (.inr (.inl rfl))) notReads
  | position => exact absurd (.inr (.inr (.inr (.inl rfl)))) notReads
  | steps => exact absurd (.inr (.inr (.inr (.inr rfl)))) notReads
  | stepLower | stepUpper | stepRange | stepComp | ssAdd | ssSub | speedNew | speedMul => exact respondsAlike_reply _
  | ddDecode | ddEncode | dirInvert | mFromRaw => exact respondsAlike_checked _ _
  | mTransition | mCalcSpeed | mCalcBounds | mEstimate | mTimeSince => exact respondsAlike_checkedTwice _ _ _

/-! Before construction no command reads a register (rules R36, R232). -/

theorem exec_readsEstimator_unconstructed {i : Instr} (h : readsEstimator i) :
    ∃ c, ∀ s : State, s.constructed = false → exec i s = raise c s := by
  rcases h with ⟨m, rfl⟩ | ⟨raw, rfl⟩ | rfl | rfl | rfl
  · by_cases hr : reservedDir m.dir
    · exact ⟨.illegalCommand, fun s _ => by simp [exec, execUpdate, hr]⟩
    · exact ⟨.notConstructed, fun s hs => by simp [exec, execUpdate, hr, hs]⟩
  · exact ⟨.notConstructed, fun s hs => by simp [exec, execUpdateRaw, hs]⟩
  · exact ⟨.notConstructed, fun s hs => by simp [exec, execSpeed, hs]⟩
  · exact ⟨.notConstructed, fun s hs => by simp [exec, execPosition, hs]⟩
  · exact ⟨.notConstructed, fun s hs => by simp [exec, execSteps, hs]⟩

/-- A construction command either faults or writes every register, from its operands alone (rules R200, R201). -/
theorem exec_constructs_unconstructed {i : Instr} (h : constructs i) :
    (∃ c, ∀ s : State, s.constructed = false → exec i s = raise c s) ∨
      ∃ cal idle m, ∀ s : State, s.constructed = false → exec i s = reply .empty (construct cal idle m s) := by
  rcases h with ⟨cal, idle, m, rfl⟩ | ⟨cal, idle, raw, rfl⟩
  · by_cases hr : reservedDir m.dir
    · exact .inl ⟨.illegalCommand, fun s _ => by simp [exec, execNew, hr]⟩
    · by_cases hv : validRecord m
      · exact .inr ⟨cal, idle, fieldMeasurement m, fun s hs => by simp [exec, execNew, hr, hs, hv]⟩
      · exact .inl ⟨.badMeasurement, fun s hs => by simp [exec, execNew, hr, hs, hv]⟩
  · by_cases ht : raw.ticks.toNat = 0
    · exact .inl ⟨.zeroClock, fun s hs => by simp only [exec, execNewRaw, hs, ht, Bool.false_eq_true, if_true, if_false]⟩
    · exact .inr ⟨cal, idle, fromRaw raw,
        fun s hs => by simp only [exec, execNewRaw, hs, ht, Bool.false_eq_true, if_false]⟩

/-- What a command does to an unconstructed block is fixed by the command: one response, or one construction. -/
theorem exec_unconstructed (i : Instr) :
    (∃ r, ∀ s : State, s.constructed = false → exec i s = .next (respond r s)) ∨
      (constructs i ∧ ∃ cal idle m, ∀ s : State, s.constructed = false →
        exec i s = .next (answer .empty (construct cal idle m s))) := by
  by_cases hc : constructs i
  · rcases exec_constructs_unconstructed hc with ⟨c, hraise⟩ | hbuild
    · exact .inl ⟨.fault c, hraise⟩
    · exact .inr ⟨hc, hbuild⟩
  · by_cases hr : readsEstimator i
    · obtain ⟨c, hraise⟩ := exec_readsEstimator_unconstructed hr
      exact .inl ⟨.fault c, hraise⟩
    · obtain ⟨r, hall⟩ := exec_functionUnit_respondsAlike ⟨hr, hc⟩
      exact .inl ⟨r, fun s _ => hall s⟩

/-! Every command and every step completes (rule R64). -/

theorem exec_completes (i : Instr) (s : State) : ∃ t, exec i s = .next t := by
  by_cases hc : constructs i
  · rcases hc with ⟨cal, idle, m, rfl⟩ | ⟨cal, idle, raw, rfl⟩
    · simp only [exec, execNew]; split_ifs <;> exact ⟨_, rfl⟩
    · simp only [exec, execNewRaw]; split_ifs <;> exact ⟨_, rfl⟩
  · by_cases hr : readsEstimator i
    · rcases hr with ⟨m, rfl⟩ | ⟨raw, rfl⟩ | rfl | rfl | rfl
      · simp only [exec, execUpdate]; split_ifs <;> exact ⟨_, rfl⟩
      · simp only [exec, execUpdateRaw]; split_ifs <;> exact ⟨_, rfl⟩
      · simp only [exec, execSpeed]; split_ifs <;> exact ⟨_, rfl⟩
      · simp only [exec, execPosition]; split_ifs <;> exact ⟨_, rfl⟩
      · simp only [exec, execSteps]; split_ifs <;> exact ⟨_, rfl⟩
    · obtain ⟨r, hall⟩ := exec_functionUnit_respondsAlike ⟨hr, hc⟩
      exact ⟨_, hall s⟩

theorem step_completes (s : State) : ∃ t, step s = .next t := by
  match hs : s.inputs with
  | [] => exact ⟨_, step_idle hs⟩
  | .reset :: rest => exact ⟨_, step_reset hs⟩
  | .command msg :: rest =>
    cases hd : decode msg with
    | instr i => rw [step_instr hs hd]; exact exec_completes i _
    | rejected why => exact ⟨_, step_rejected hs hd⟩

/-! Good operand records: what the checks of rules R89 and R151 say of them. -/

theorem reservedDir_of_good {m : MeasurementRecord} (h : Good m) : reservedDir m.dir = false := by
  simp [reservedDir_eq_not_wf, dirFieldWf, h.1]

theorem validRecord_of_good {m : MeasurementRecord} (h : Good m) : validRecord m = true := by
  simpa [validRecord] using h.2

theorem timeSince_toNat {m : Measurement} (h : MeasurementValid m) :
    (timeSince m).toNat = m.sampleInstant.toNat - m.stepInstant.toNat :=
  BitVec.toNat_sub_of_le (BitVec.le_def.2 h)

theorem exec_update_of_good {m : MeasurementRecord} {s : State} (h : Good m) (hs : s.constructed = true) :
    exec (.update m) s = .next (answer .empty (updateWith (fieldMeasurement m) s)) := by
  simp [exec, execUpdate, reservedDir_of_good h, validRecord_of_good h, hs, reply]

theorem exec_mTransition_of_good {m : MeasurementRecord} (h : Good m) (cal : Calibration) (s : State) :
    exec (.mTransition m cal) s = .next (answer (.substep (transition (fieldMeasurement m) cal)) s) := by
  simp [exec, execMTransition, reservedDir_of_good h, validRecord_of_good h, reply]

theorem exec_speed_constructed {s : State} (hs : s.constructed = true) :
    exec .speed s = .next (answer (.speed s.lastKnownSpeed) s) := by
  simp [exec, execSpeed, hs, reply]

theorem exec_position_constructed {s : State} (hs : s.constructed = true) :
    exec .position s = .next (answer (.position (positionOf s)) s) := by
  simp [exec, execPosition, hs, reply]

end Sys2Proof.Proofs

/-! The invariant of rules R26, R28, R35 (a) and R236. -/

namespace Sys2Proof.Proofs

open Sys2Proof.Machine Sys2Proof.Claims

/-- The reserved bits of `FAULTS` belong to no fault code (rules R28, R231). -/
theorem faultBit_and_reserved (c : FaultCode) : faultBit c &&& 0xC1#8 = 0#8 := by
  cases c <;> rfl

theorem faultRecorded_takeFault (c : FaultCode) (s : State) : faultRecorded c (takeFault c s) = true := by
  cases c <;> simp [faultRecorded, faultBit, faultNumber]

theorem stateInvariant_answer {s : State} (r : Result) (valid : s.constructed = true → MeasurementValid s.prev)
    (clear : s.faults &&& 0xC1#8 = 0#8) : StateInvariant (answer r s) :=
  ⟨valid, clear, rfl⟩

theorem stateInvariant_takeFault {s : State} (c : FaultCode) (h : StateInvariant s) :
    StateInvariant (takeFault c s) := by
  obtain ⟨valid, clear, _⟩ := h
  refine ⟨valid, ?_, faultRecorded_takeFault c s⟩
  have distrib : (s.faults ||| faultBit c) &&& 0xC1#8 = s.faults &&& 0xC1#8 ||| faultBit c &&& 0xC1#8 := by
    ext k hk; simp [Bool.and_or_distrib_right]
  simp [distrib, clear, faultBit_and_reserved]

theorem effect_keeps_invariant {s t : State} (h : StateInvariant s) (e : Effect s t) : StateInvariant t := by
  have ⟨prevValid, clear, _⟩ := h
  cases e with
  | fault c => exact stateInvariant_takeFault c h
  | answer r => exact stateInvariant_answer r prevValid clear
  | construct cal idle m fresh valid => exact stateInvariant_answer _ (fun _ => valid) clear
  | update m built valid => exact stateInvariant_answer _ (fun _ => valid) clear

/-- Settles O12. -/
theorem resetSatisfiesTheInvariant : Obligations.ResetSatisfiesTheInvariant :=
  ⟨by simp, by simp, rfl⟩

/-- Settles O13, by the cases of what a step can do; the port's inputs are no part of the invariant. -/
theorem everyStepKeepsTheInvariant : Obligations.EveryStepKeepsTheInvariant := by
  intro s t hinv hstep
  rcases step_effect hstep with ⟨_, rfl⟩ | ⟨rest, _, rfl⟩ | ⟨msg, rest, _, effect⟩
  · exact hinv
  · exact resetSatisfiesTheInvariant
  · exact effect_keeps_invariant (s := { s with inputs := rest }) hinv effect

end Sys2Proof.Proofs

/-! Two states that agree on everything the spec gives a value stay in agreement (rules R27, R36, R232). -/

namespace Sys2Proof.Proofs

open Sys2Proof.Machine Sys2Proof.Claims

theorem specifiedAgree_refl (s : State) : SpecifiedAgree s s :=
  ⟨rfl, rfl, rfl, rfl, fun _ => ⟨rfl, rfl, rfl, rfl⟩⟩

/-- Once constructed, nothing is left unspecified. -/
theorem specifiedAgree_eq_of_constructed {s t : State} (h : SpecifiedAgree s t) (hs : s.constructed = true) : s = t := by
  obtain ⟨hconstructed, hfaults, hinputs, hresponse, hregisters⟩ := h
  obtain ⟨hcal, hidle, hspeed, hprev⟩ := hregisters hs
  cases s; cases t; simp_all

theorem specifiedAgree_setInputs {s t : State} (h : SpecifiedAgree s t) (xs : List HostInput) :
    SpecifiedAgree { s with inputs := xs } { t with inputs := xs } := by
  obtain ⟨hconstructed, hfaults, _, hresponse, hregisters⟩ := h
  exact ⟨hconstructed, hfaults, rfl, hresponse, hregisters⟩

theorem specifiedAgree_respond {s t : State} (h : SpecifiedAgree s t) (r : Response) :
    SpecifiedAgree (respond r s) (respond r t) := by
  obtain ⟨hconstructed, hfaults, hinputs, _, hregisters⟩ := h
  cases r with
  | ok v => exact ⟨hconstructed, hfaults, hinputs, rfl, hregisters⟩
  | fault c => exact ⟨hconstructed, congrArg (· ||| faultBit c) hfaults, hinputs, rfl, hregisters⟩

theorem specifiedAgree_construct {s t : State} (h : SpecifiedAgree s t) (cal : Calibration) (idle : Word64)
    (m : Measurement) :
    SpecifiedAgree (answer .empty (construct cal idle m s)) (answer .empty (construct cal idle m t)) := by
  obtain ⟨_, hfaults, hinputs, _, _⟩ := h
  exact ⟨rfl, hfaults, hinputs, rfl, fun _ => ⟨rfl, rfl, rfl, rfl⟩⟩

theorem exec_specifiedAgree_unconstructed {s t : State} (h : SpecifiedAgree s t) (hs : s.constructed = false)
    (i : Instr) : ∃ s' t', exec i s = .next s' ∧ exec i t = .next t' ∧ SpecifiedAgree s' t' := by
  have ⟨hconstructed, _⟩ := h
  have ht : t.constructed = false := hconstructed.symm.trans hs
  rcases exec_unconstructed i with ⟨r, hrespond⟩ | ⟨_, cal, idle, m, hbuild⟩
  · exact ⟨_, _, hrespond s hs, hrespond t ht, specifiedAgree_respond h r⟩
  · exact ⟨_, _, hbuild s hs, hbuild t ht, specifiedAgree_construct h cal idle m⟩

theorem step_specifiedAgree_unconstructed {s t : State} (h : SpecifiedAgree s t) (hs : s.constructed = false) :
    ∃ s' t', step s = .next s' ∧ step t = .next t' ∧ SpecifiedAgree s' t' := by
  have ⟨_, _, hinputs, _⟩ := h
  match hsi : s.inputs with
  | [] => exact ⟨s, t, step_idle hsi, step_idle (hinputs.symm.trans hsi), h⟩
  | .reset :: rest => exact ⟨_, _, step_reset hsi, step_reset (hinputs.symm.trans hsi), specifiedAgree_refl _⟩
  | .command msg :: rest =>
    have hti := hinputs.symm.trans hsi
    have hrest := specifiedAgree_setInputs h rest
    cases hd : decode msg with
    | instr i =>
      rw [step_instr hsi hd, step_instr hti hd]
      exact exec_specifiedAgree_unconstructed hrest hs i
    | rejected why =>
      exact ⟨_, _, step_rejected hsi hd, step_rejected hti hd, specifiedAgree_respond hrest (.fault .illegalCommand)⟩

theorem step_specifiedAgree {s t : State} (h : SpecifiedAgree s t) :
    ∃ s' t', step s = .next s' ∧ step t = .next t' ∧ SpecifiedAgree s' t' := by
  cases hs : s.constructed with
  | false => exact step_specifiedAgree_unconstructed h hs
  | true =>
    obtain rfl := specifiedAgree_eq_of_constructed h hs
    obtain ⟨s', hstep⟩ := step_completes s
    exact ⟨s', s', hstep, hstep, specifiedAgree_refl s'⟩

/-- Settles O14, by induction on the number of steps. -/
theorem unspecifiedRegistersAreNeverObserved : Obligations.UnspecifiedRegistersAreNeverObserved := by
  intro k
  induction k with
  | zero => exact fun s t h => ⟨s, t, rfl, rfl, h⟩
  | succ k ih =>
    intro s t h
    obtain ⟨s₁, t₁, hs, ht, h₁⟩ := step_specifiedAgree h
    rw [run_succ hs, run_succ ht]
    exact ih s₁ t₁ h₁

end Sys2Proof.Proofs

/-! Faults, the configuration and the function units. -/

namespace Sys2Proof.Proofs

open Sys2Proof.Machine Sys2Proof.Claims

theorem effect_of_fault_response {s t : State} {c : FaultCode} (e : Effect s t) (h : t.response = some (.fault c)) :
    t = takeFault c s := by
  cases e with
  | fault d => cases h; rfl
  | answer | construct | update => cases h

theorem effect_faults_of_ok_response {s t : State} {r : Result} (e : Effect s t) (h : t.response = some (.ok r)) :
    t.faults = s.faults := by
  cases e with
  | fault d => cases h
  | answer | construct | update => rfl

/-- Settles O16: a fault response comes from fault entry alone. -/
theorem faultChangesOnlyItsStickyBit : Obligations.FaultChangesOnlyItsStickyBit := by
  intro s t msg rest hs hstep
  have effect := step_command_effect hs hstep
  exact ⟨fun c hc => (effect_of_fault_response effect hc).trans (takeFault_eq_faulted c _),
    fun r hr => (effect_faults_of_ok_response effect hr :)⟩

theorem effect_keeps_constructed {s t : State} (e : Effect s t) (h : s.constructed = true) : t.constructed = true := by
  cases e with
  | fault | answer | update => exact h
  | construct => rfl

/-- Only a construction writes `CAL` and `IDLE_TIMEOUT` (rule R29). -/
theorem effect_config {s t : State} (e : Effect s t) :
    (t.cal = s.cal ∧ t.idleTimeout = s.idleTimeout) ∨ (s.constructed = false ∧ t.constructed = true) := by
  cases e with
  | fault | answer | update => exact .inl ⟨rfl, rfl⟩
  | construct cal idle m fresh valid => exact .inr ⟨fresh, rfl⟩

/-- Only NEW and NEW_RAW construct a block. -/
theorem constructs_of_exec {i : Instr} {s t : State} (h : exec i s = .next t) (hs : s.constructed = false)
    (ht : t.constructed = true) : constructs i := by
  rcases exec_unconstructed i with ⟨r, hrespond⟩ | ⟨hc, _⟩
  · cases (hrespond s hs).symm.trans h
    simp [hs] at ht
  · exact hc

theorem constructs_of_step {s t : State} {msg : List Byte} {rest : List HostInput}
    (hi : s.inputs = .command msg :: rest) (h : step s = .next t) (hs : s.constructed = false)
    (ht : t.constructed = true) : ∃ i, decode msg = .instr i ∧ constructs i := by
  cases hd : decode msg with
  | instr i => exact ⟨i, rfl, constructs_of_exec ((step_instr hi hd).symm.trans h) hs ht⟩
  | rejected why =>
    cases (step_rejected hi hd).symm.trans h
    simp [hs] at ht

/-- Settles O17: the configuration changes only where an unconstructed block becomes constructed, and only NEW and NEW_RAW do
that. -/
theorem configurationIsImmutableOnceConstructed : Obligations.ConfigurationIsImmutableOnceConstructed := by
  intro s t msg rest hi hstep
  have effect := step_command_effect hi hstep
  have stays := effect_keeps_constructed effect
  refine ⟨stays, ?_⟩
  rcases effect_config effect with kept | ⟨fresh, built⟩
  · exact .inl kept
  · exact .inr ⟨fresh, built, constructs_of_step hi hstep fresh built⟩

/-- Settles O18. -/
theorem functionUnitsReadAndWriteNoRegister : Obligations.FunctionUnitsReadAndWriteNoRegister := by
  intro i hi
  obtain ⟨r, hall⟩ := exec_functionUnit_respondsAlike hi
  refine ⟨r, fun s => ⟨?_, ?_⟩⟩
  · rintro v rfl
    exact hall s
  · rintro c rfl
    rw [hall s, respond, takeFault_eq_faulted]

end Sys2Proof.Proofs

/-! The idle timeout (rule R35 (e)). -/

namespace Sys2Proof.Proofs

open Sys2Proof.Machine Sys2Proof.Claims

theorem updatedSpeed_of_idle {m : Measurement} {s : State} (valid : MeasurementValid m)
    (idle : s.idleTimeout.toNat ≤ m.sampleInstant.toNat - m.stepInstant.toNat) : updatedSpeed m s = 0#32 := by
  rw [updatedSpeed, timeSince_toNat valid, if_pos idle, speedStopped]

/-- A stopped encoder covers no distance in any time. -/
theorem mulSpeed_stopped (d : Word64) : mulSpeed 0#32 d = 0#32 := by
  simp [mulSpeed]

theorem exec_speed_stopped {s : State} (hs : s.constructed = true) (h : s.lastKnownSpeed = 0#32) :
    exec .speed s = .next (answered (.speed 0#32) s) := by
  rw [exec_speed_constructed hs, h, answer_eq_answered]

theorem exec_position_stopped {s : State} (hs : s.constructed = true) (h : s.lastKnownSpeed = 0#32) :
    exec .position s = .next (answered (.position (transition s.prev s.cal)) s) := by
  have hp : positionOf s = transition s.prev s.cal := by simp [positionOf, h, mulSpeed_stopped, substepAdd]
  rw [exec_position_constructed hs, hp, answer_eq_answered]

theorem stoppedRegime_of_stopped {s : State} (hs : s.constructed = true) (h : s.lastKnownSpeed = 0#32) :
    stoppedRegime s = true := by
  simp [stoppedRegime, hs, h]

/-- Settles O53: the update stores the speed 0, and a zero speed adds nothing to the transition. -/
theorem idleTimeoutStopsTheEstimator : Obligations.IdleTimeoutStopsTheEstimator := by
  intro m s good built idle
  have stopped : (updateWith (fieldMeasurement m) s).lastKnownSpeed = 0#32 := updatedSpeed_of_idle good.2 idle
  exact ⟨_, exec_update_of_good good built, stoppedRegime_of_stopped built stopped, exec_speed_stopped built stopped,
    _, exec_mTransition_of_good good s.cal _, exec_position_stopped built stopped⟩

end Sys2Proof.Proofs

/-! The port: every input is performed and every command answered (rules R59, R61, R64, R260). -/

namespace Sys2Proof.Proofs

open Sys2Proof.Machine Sys2Proof.Claims

/-- Settles O8. -/
theorem stepRunsTheDecodedCommand : Obligations.StepRunsTheDecodedCommand :=
  fun _ _ _ _ hs hd => step_instr hs hd

/-- Settles O9, by what a step does with a reset and with an empty port. -/
theorem resetClearsTheFlagsAndAnIdlePortChangesNothing : Obligations.ResetClearsTheFlagsAndAnIdlePortChangesNothing :=
  ⟨fun _ _ hs => ⟨_, step_reset hs, reset_constructed, reset_faults, reset_response, rfl⟩, fun _ hs => step_idle hs,
    reset_constructed, reset_faults⟩

theorem effect_inputs {s t : State} (e : Effect s t) : t.inputs = s.inputs := by
  cases e with
  | fault | answer | construct | update => rfl

theorem effect_responds {s t : State} (e : Effect s t) : ∃ r, t.response = some r := by
  cases e with
  | fault c => exact ⟨.fault c, rfl⟩
  | answer r => exact ⟨.ok r, rfl⟩
  | construct | update => exact ⟨.ok .empty, rfl⟩

/-- Settles O10: a step completes, and whatever a command's effect is, it leaves a response. -/
theorem everyCommandCompletesAndIsAnswered : Obligations.EveryCommandCompletesAndIsAnswered := by
  intro s msg rest hs
  obtain ⟨t, hstep⟩ := step_completes s
  have effect := step_command_effect hs hstep
  obtain ⟨r, hr⟩ := effect_responds effect
  exact ⟨t, r, hstep, effect_inputs effect, hr⟩

/-! Performing inputs one after another, by the first of them. -/

theorem performAll_reset (xs : List HostInput) (s : State) :
    performAll (.reset :: xs) s = performAll xs State.reset := rfl

theorem performAll_rejected {msg : List Byte} {why : Rejection} (hd : decode msg = .rejected why)
    (xs : List HostInput) (s : State) :
    performAll (.command msg :: xs) s = performAll xs (takeFault .illegalCommand s) := by
  simp [performAll, hd, takeFault_eq_faulted, faultNumber]

theorem performAll_instr {msg : List Byte} {i : Instr} {s t : State} (hd : decode msg = .instr i)
    (h : exec i s = .next t) (xs : List HostInput) : performAll (.command msg :: xs) s = performAll xs t := by
  simp [performAll, hd, h]

/-- Performing one input makes the same state of a block as the step that takes it from the port, whatever is pending
behind it (rules R59, R61). -/
theorem performAll_cons_matches_step (x : HostInput) (s : State) :
    ∃ t : State, (∀ xs, performAll (x :: xs) { s with inputs := [] } = performAll xs { t with inputs := [] }) ∧
      ∀ rest, step { s with inputs := x :: rest } = .next { t with inputs := rest } := by
  cases x with
  | reset => exact ⟨State.reset, fun xs => performAll_reset xs _, fun _ => step_reset rfl⟩
  | command msg =>
    cases hd : decode msg with
    | rejected why =>
      exact ⟨takeFault .illegalCommand s, fun xs => performAll_rejected hd xs _,
        fun rest => step_rejected (s := { s with inputs := .command msg :: rest }) rfl hd⟩
    | instr i =>
      obtain ⟨t, ht⟩ := exec_completes i s
      exact ⟨t, performAll_instr hd (exec_inputs ht []),
        fun rest => (step_instr rfl hd).trans (exec_inputs ht rest)⟩

/-- Settles O11, by induction on the inputs performed. -/
theorem runPerformsAllInputs : Obligations.RunPerformsAllInputs := by
  intro s xs ys
  induction xs generalizing s with
  | nil => exact ⟨{ s with inputs := [] }, rfl, rfl⟩
  | cons x xs ih =>
    obtain ⟨t, hperform, hstep⟩ := performAll_cons_matches_step x s
    obtain ⟨u, hall, hrun⟩ := ih t
    exact ⟨u, (hperform xs).trans hall, (run_succ (hstep (xs ++ ys))).trans hrun⟩

end Sys2Proof.Proofs

/-! Queries and function units write no register, and what they respond does not depend on the response before
(rule R54). -/

namespace Sys2Proof.Proofs

open Sys2Proof.Machine Sys2Proof.Claims

/-- A meaning that only responds, with a response that an answer at the port does not change. -/
def RespondsRepeatably (f : State → Host.Outcome State Fault Refusal) : Prop :=
  ∃ response : State → Response,
    (∀ s, f s = .next (respond (response s) s)) ∧ ∀ v s, response (answer v s) = response s

theorem respondsRepeatably_of_respondsAlike {f : State → Host.Outcome State Fault Refusal} (h : RespondsAlike f) :
    RespondsRepeatably f := by
  obtain ⟨r, hall⟩ := h
  exact ⟨fun _ => r, hall, fun _ _ => rfl⟩

/-- What a query of the register value `v` responds (rules R206 to R208, R232). -/
def queryResponse (v : State → Result) (s : State) : Response :=
  if !s.constructed then .fault .notConstructed else .ok (v s)

theorem respondsRepeatably_query {v : State → Result} (hv : ∀ r s, v (answer r s) = v s) :
    RespondsRepeatably fun s => if !s.constructed then raise .notConstructed s else reply (v s) s := by
  refine ⟨queryResponse v, fun s => ?_, fun r s => ?_⟩
  · cases hs : s.constructed with
    | false => simp [queryResponse, hs, respond, raise]
    | true => simp [queryResponse, hs, respond, reply]
  · simp [queryResponse, hv]

theorem exec_respondsRepeatably {i : Instr} (h : functionUnit i ∨ i = .speed ∨ i = .position ∨ i = .steps) :
    RespondsRepeatably (exec i) := by
  rcases h with unit | rfl | rfl | rfl
  · exact respondsRepeatably_of_respondsAlike (exec_functionUnit_respondsAlike unit)
  · exact respondsRepeatably_query (v := fun s => .speed s.lastKnownSpeed) fun _ _ => rfl
  · exact respondsRepeatably_query (v := fun s => .position (positionOf s)) fun _ _ => rfl
  · exact respondsRepeatably_query (v := fun s => .step s.prev.step) fun _ _ => rfl

theorem respond_response (r : Response) (s : State) : (respond r s).response = some r := by
  cases r <;> rfl

/-- Settles O19: the answer is the only thing the first run leaves, and the second run responds alike. -/
theorem queriesAndFunctionUnitsAreIdempotent : Obligations.QueriesAndFunctionUnitsAreIdempotent := by
  intro i s t r hi hexec hr
  obtain ⟨response, hall, hrepeat⟩ := exec_respondsRepeatably hi
  cases (hall s).symm.trans hexec
  have hresponse : response s = .ok r := by simpa [respond_response] using hr
  have hfirst : respond (response s) s = answer r s := by rw [hresponse, respond]
  refine ⟨hfirst, ?_⟩
  rw [hfirst, hall, hrepeat, hresponse]
  rfl

end Sys2Proof.Proofs

/-! The decoder and the encoder are inverse (rules R84, R86, R90 to R94). -/

namespace Sys2Proof.Proofs

open Sys2Proof.Machine Sys2Proof.Claims

/-! A field reader takes a value from the front of the bytes exactly when the value's bytes stand there. -/

theorem read8_eq_some_iff {bs rest : List Byte} {b : Byte} : read8 bs = some (b, rest) ↔ bs = b :: rest :=
  ⟨read8_some, fun h => h ▸ read8_cons b rest⟩

theorem read32_eq_some_iff {bs rest : List Byte} {w : Word32} :
    read32 bs = some (w, rest) ↔ bs = bytes32 w ++ rest :=
  ⟨read32_some, fun h => h ▸ read32_bytes32 w rest⟩

theorem read64_eq_some_iff {bs rest : List Byte} {w : Word64} :
    read64 bs = some (w, rest) ↔ bs = bytes64 w ++ rest :=
  ⟨read64_some, fun h => h ▸ read64_bytes64 w rest⟩

theorem readCal_eq_some_iff {bs rest : List Byte} {c : Calibration} :
    readCal bs = some (c, rest) ↔ bs = bytesCal c ++ rest :=
  ⟨readCal_some, fun h => h ▸ readCal_bytesCal c rest⟩

theorem readMeasurement_eq_some_iff {bs rest : List Byte} {m : MeasurementRecord} :
    readMeasurement bs = some (m, rest) ↔ bs = bytesMeasurement m ++ rest :=
  ⟨readMeasurement_some, fun h => h ▸ readMeasurement_bytesMeasurement m rest⟩

theorem readRaw_eq_some_iff {bs rest : List Byte} {r : RawRecord} :
    readRaw bs = some (r, rest) ↔ bs = bytesRaw r ++ rest :=
  ⟨readRaw_some, fun h => h ▸ readRaw_bytesRaw r rest⟩

/-! A format reader takes a whole body for a command exactly when the body is the command's fields (rules R91, R93). -/

section formats

variable {body : List Byte} {i : Instr}

theorem readF0_eq_some_iff {mk : Instr} : readF0 mk body = some (i, []) ↔ body = [] ∧ mk = i := by
  simp [readF0, and_comm]

theorem readFCM_eq_some_iff {mk : Calibration → Word64 → MeasurementRecord → Instr} :
    readFCM mk body = some (i, []) ↔
      ∃ cal idle m, body = bytesCal cal ++ bytes64 idle ++ bytesMeasurement m ∧ mk cal idle m = i := by
  simp [readFCM, Option.bind_eq_some_iff, readCal_eq_some_iff, read64_eq_some_iff, readMeasurement_eq_some_iff]

theorem readFCR_eq_some_iff {mk : Calibration → Word64 → RawRecord → Instr} :
    readFCR mk body = some (i, []) ↔
      ∃ cal idle raw, body = bytesCal cal ++ bytes64 idle ++ bytesRaw raw ∧ mk cal idle raw = i := by
  simp [readFCR, Option.bind_eq_some_iff, readCal_eq_some_iff, read64_eq_some_iff, readRaw_eq_some_iff]

theorem readFM_eq_some_iff {mk : MeasurementRecord → Instr} :
    readFM mk body = some (i, []) ↔ ∃ m, body = bytesMeasurement m ∧ mk m = i := by
  simp [readFM, Option.bind_eq_some_iff, readMeasurement_eq_some_iff]

theorem readFR_eq_some_iff {mk : RawRecord → Instr} :
    readFR mk body = some (i, []) ↔ ∃ raw, body = bytesRaw raw ∧ mk raw = i := by
  simp [readFR, Option.bind_eq_some_iff, readRaw_eq_some_iff]

theorem readFSC_eq_some_iff {mk : Word32 → Calibration → Instr} :
    readFSC mk body = some (i, []) ↔ ∃ step cal, body = bytes32 step ++ bytesCal cal ∧ mk step cal = i := by
  simp [readFSC, Option.bind_eq_some_iff, read32_eq_some_iff, readCal_eq_some_iff]

theorem readFWW_eq_some_iff {mk : Word32 → Word32 → Instr} :
    readFWW mk body = some (i, []) ↔ ∃ a b, body = bytes32 a ++ bytes32 b ∧ mk a b = i := by
  simp [readFWW, Option.bind_eq_some_iff, read32_eq_some_iff]

theorem readFWD_eq_some_iff {mk : Word32 → Word64 → Instr} :
    readFWD mk body = some (i, []) ↔ ∃ w duration, body = bytes32 w ++ bytes64 duration ∧ mk w duration = i := by
  simp [readFWD, Option.bind_eq_some_iff, read32_eq_some_iff, read64_eq_some_iff]

theorem readFMC_eq_some_iff {mk : MeasurementRecord → Calibration → Instr} :
    readFMC mk body = some (i, []) ↔ ∃ m cal, body = bytesMeasurement m ++ bytesCal cal ∧ mk m cal = i := by
  simp [readFMC, Option.bind_eq_some_iff, readMeasurement_eq_some_iff, readCal_eq_some_iff]

theorem readFMMC_eq_some_iff {mk : MeasurementRecord → MeasurementRecord → Calibration → Instr} :
    readFMMC mk body = some (i, []) ↔
      ∃ prev curr cal,
        body = bytesMeasurement prev ++ bytesMeasurement curr ++ bytesCal cal ∧ mk prev curr cal = i := by
  simp [readFMMC, Option.bind_eq_some_iff, readMeasurement_eq_some_iff, readCal_eq_some_iff]

theorem readFSMMC_eq_some_iff {mk : Word32 → MeasurementRecord → MeasurementRecord → Calibration → Instr} :
    readFSMMC mk body = some (i, []) ↔
      ∃ last prev curr cal,
        body = bytes32 last ++ bytesMeasurement prev ++ bytesMeasurement curr ++ bytesCal cal ∧ mk last prev curr cal = i := by
  simp [readFSMMC, Option.bind_eq_some_iff, read32_eq_some_iff, readMeasurement_eq_some_iff, readCal_eq_some_iff]

theorem readFDI_eq_some_iff {mk : Byte → Word32 → Instr} :
    readFDI mk body = some (i, []) ↔ ∃ dir iterations, body = dir :: bytes32 iterations ∧ mk dir iterations = i := by
  simp [readFDI, Option.bind_eq_some_iff, read8_eq_some_iff, read32_eq_some_iff]

theorem readFDIR_eq_some_iff {mk : Byte → Instr} :
    readFDIR mk body = some (i, []) ↔ ∃ dir, body = [dir] ∧ mk dir = i := by
  simp [readFDIR, Option.bind_eq_some_iff, read8_eq_some_iff]

end formats

/-! The decoder, by what the reader of the opcode makes of the body. -/

theorem decode_eq_instr_iff_read {op : Byte} {body : List Byte} {i : Instr} :
    decode (op :: body) = .instr i ↔ ∃ read, operandReader op = some read ∧ read body = some (i, []) := by
  cases hop : operandReader op with
  | none => simp [decode, hop]
  | some read =>
    match hread : read body with
    | none => simp [decode, hop, hread]
    | some (j, []) => simp [decode, hop, hread]
    | some (j, b :: rest) => simp [decode, hop, hread]

theorem decode_of_reserved {op : Byte} (hop : operandReader op = none) (body : List Byte) :
    decode (op :: body) = .rejected (.reservedOpcode op) := by
  simp [decode, hop]

theorem decode_of_read {op : Byte} {read : List Byte → Option (Instr × List Byte)} {body : List Byte} {i : Instr}
    (hop : operandReader op = some read) (hread : read body = some (i, [])) : decode (op :: body) = .instr i :=
  decode_eq_instr_iff_read.2 ⟨read, hop, hread⟩

/-- Every command is read back from its encoding by the reader of its opcode. The cases go by the formats of rule R91. -/
theorem decode_encode (i : Instr) : decode (encode i) = .instr i := by
  cases i with
  | speed | position | steps => exact decode_of_read rfl (readF0_eq_some_iff.2 ⟨rfl, rfl⟩)
  | new cal idle m => exact decode_of_read rfl (readFCM_eq_some_iff.2 ⟨cal, idle, m, rfl, rfl⟩)
  | newRaw cal idle raw => exact decode_of_read rfl (readFCR_eq_some_iff.2 ⟨cal, idle, raw, rfl, rfl⟩)
  | update m | mTimeSince m => exact decode_of_read rfl (readFM_eq_some_iff.2 ⟨m, rfl, rfl⟩)
  | updateRaw raw | mFromRaw raw => exact decode_of_read rfl (readFR_eq_some_iff.2 ⟨raw, rfl, rfl⟩)
  | stepLower step cal | stepUpper step cal | stepRange step cal =>
    exact decode_of_read rfl (readFSC_eq_some_iff.2 ⟨step, cal, rfl, rfl⟩)
  | stepComp a b | ssAdd a b | ssSub a b | ddDecode a b =>
    exact decode_of_read rfl (readFWW_eq_some_iff.2 ⟨a, b, rfl, rfl⟩)
  | ddEncode dir iterations => exact decode_of_read rfl (readFDI_eq_some_iff.2 ⟨dir, iterations, rfl, rfl⟩)
  | dirInvert dir => exact decode_of_read rfl (readFDIR_eq_some_iff.2 ⟨dir, rfl, rfl⟩)
  | speedNew w duration | speedMul w duration =>
    exact decode_of_read rfl (readFWD_eq_some_iff.2 ⟨w, duration, rfl, rfl⟩)
  | mTransition m cal => exact decode_of_read rfl (readFMC_eq_some_iff.2 ⟨m, cal, rfl, rfl⟩)
  | mCalcSpeed prev curr cal | mCalcBounds prev curr cal =>
    exact decode_of_read rfl (readFMMC_eq_some_iff.2 ⟨prev, curr, cal, rfl, rfl⟩)
  | mEstimate last prev curr cal =>
    exact decode_of_read rfl (readFSMMC_eq_some_iff.2 ⟨last, prev, curr, cal, rfl, rfl⟩)

/-- What a reader of the opcode map takes is the encoding of the command it builds. The cases are the rows of the map
(rule R90) in its order, put together by their formats (rule R91). -/
theorem encode_of_operandReader {op : Byte} {read : List Byte → Option (Instr × List Byte)} {body : List Byte}
    {i : Instr} (hop : operandReader op = some read) (hread : read body = some (i, [])) : op :: body = encode i := by
  unfold operandReader at hop
  rw [show op = BitVec.ofNat 8 op.toNat by simp]
  generalize op.toNat = n at hop ⊢
  split at hop
  all_goals cases hop
  case h_1 => obtain ⟨cal, idle, m, rfl, rfl⟩ := readFCM_eq_some_iff.1 hread; rfl
  case h_2 => obtain ⟨cal, idle, raw, rfl, rfl⟩ := readFCR_eq_some_iff.1 hread; rfl
  case h_3 | h_24 => obtain ⟨m, rfl, rfl⟩ := readFM_eq_some_iff.1 hread; rfl
  case h_4 | h_23 => obtain ⟨raw, rfl, rfl⟩ := readFR_eq_some_iff.1 hread; rfl
  case h_5 | h_6 | h_7 => obtain ⟨rfl, rfl⟩ := readF0_eq_some_iff.1 hread; rfl
  case h_8 | h_9 | h_10 => obtain ⟨step, cal, rfl, rfl⟩ := readFSC_eq_some_iff.1 hread; rfl
  case h_11 | h_12 | h_13 | h_14 => obtain ⟨a, b, rfl, rfl⟩ := readFWW_eq_some_iff.1 hread; rfl
  case h_15 => obtain ⟨dir, iterations, rfl, rfl⟩ := readFDI_eq_some_iff.1 hread; rfl
  case h_16 => obtain ⟨dir, rfl, rfl⟩ := readFDIR_eq_some_iff.1 hread; rfl
  case h_17 | h_18 => obtain ⟨w, duration, rfl, rfl⟩ := readFWD_eq_some_iff.1 hread; rfl
  case h_19 => obtain ⟨m, cal, rfl, rfl⟩ := readFMC_eq_some_iff.1 hread; rfl
  case h_20 | h_21 => obtain ⟨prev, curr, cal, rfl, rfl⟩ := readFMMC_eq_some_iff.1 hread; rfl
  case h_22 => obtain ⟨last, prev, curr, cal, rfl, rfl⟩ := readFSMMC_eq_some_iff.1 hread; rfl

/-- A message decodes to a command exactly when it is the command's encoding. -/
theorem decode_eq_instr_iff {msg : List Byte} {i : Instr} : decode msg = .instr i ↔ msg = encode i := by
  refine ⟨fun h => ?_, fun h => h ▸ decode_encode i⟩
  cases msg with
  | nil => cases h
  | cons op body =>
    obtain ⟨read, hop, hread⟩ := decode_eq_instr_iff_read.1 h
    exact encode_of_operandReader hop hread

/-- Settles O2, command by command: the reader of each format takes back the fields the encoder wrote. -/
theorem decodeOfEncodeIsIdentity : Obligations.DecodeOfEncodeIsIdentity := decode_encode

/-- Settles O3, by the rows of the opcode map: what each reader takes is an encoding. -/
theorem decodedMessageIsItsEncoding : Obligations.DecodedMessageIsItsEncoding :=
  fun _ _ => decode_eq_instr_iff.1

/-- Settles O4: each message is the encoding of its command, byte by byte. -/
theorem specMessagesDecodeToTheirCommands : Obligations.SpecMessagesDecodeToTheirCommands := by
  simp only [Obligations.SpecMessagesDecodeToTheirCommands, decode_eq_instr_iff]
  decide

end Sys2Proof.Proofs

/-! The message of a command written on plain numbers (rules R84, R86, R91), and the messages that are no command
(rules R92, R93). -/

namespace Sys2Proof.Proofs

open Sys2Proof.Machine Sys2Proof.Claims

/-! The big-endian bytes of a number (rule R86). -/

@[simp] theorem bigEndian_one (v : Nat) : bigEndian 1 v = [BitVec.ofNat 8 v] := by simp [bigEndian]

theorem bigEndian_add (m n v : Nat) : bigEndian (m + n) v = bigEndian m (v / 256 ^ n) ++ bigEndian n v := by
  induction m with
  | zero => simp [bigEndian]
  | succ m ih =>
    rw [Nat.succ_add, bigEndian, bigEndian, ih, Nat.div_div_eq_div_mul, ← Nat.pow_add, Nat.add_comm n m,
      List.cons_append]

/-- Byte `k` of a 32-bit word is its number shifted down by `k` bytes. -/
theorem extractByte_ofNat {v k : Nat} (hk : k < 4) :
    (BitVec.ofNat 32 v).extractLsb' (8 * k) 8 = BitVec.ofNat 8 (v / 256 ^ k) := by
  apply BitVec.eq_of_getLsbD_eq
  intro j hj
  have hbit : 8 * k + j < 32 := by omega
  rw [show 256 ^ k = 2 ^ (8 * k) from (Nat.pow_mul 2 8 k).symm]
  simp only [BitVec.getLsbD_extractLsb', BitVec.getLsbD_ofNat, Nat.testBit_div_two_pow, Nat.add_comm j, hj, hbit,
    decide_true, Bool.true_and]

theorem bytes32_ofNat (v : Nat) : bytes32 (BitVec.ofNat 32 v) = bigEndian 4 v := by
  simp only [bigEndian, bytes32, ← extractByte_ofNat, Nat.reduceLT]

@[simp] theorem bigEndian_toNat32 (w : Word32) : bigEndian 4 w.toNat = bytes32 w := by
  rw [← bytes32_ofNat, BitVec.ofNat_toNat, BitVec.setWidth_eq]

@[simp] theorem bigEndian_toNat64 (w : Word64) : bigEndian 8 w.toNat = bytes64 w := by
  rw [show bigEndian 8 w.toNat = _ from bigEndian_add 4 4 _, ← bytes32_ofNat, ← bytes32_ofNat]
  simp [bytes64, BitVec.extractLsb', Nat.shiftRight_eq_div_pow]

/-! The layout of rule R91 is what the encoder writes. -/

@[simp] theorem calFields_eq_bytesCal (c : Calibration) : calFields c = bytesCal c := by
  simp [calFields, bytesCal]

@[simp] theorem measurementFields_eq_bytesMeasurement (m : MeasurementRecord) :
    measurementFields m = bytesMeasurement m := by
  simp [measurementFields, bytesMeasurement]

@[simp] theorem rawFields_eq_bytesRaw (r : RawRecord) : rawFields r = bytesRaw r := by
  simp [rawFields, bytesRaw]

theorem message_eq_encode (i : Instr) : message i = encode i := by
  cases i <;> simp [message, layout, encode]

theorem message_eq_cons (i : Instr) : message i = BitVec.ofNat 8 (layout i).1 :: (layout i).2.1 := by
  simp [message]

theorem message_length (i : Instr) : (message i).length = (layout i).2.2 := by
  cases i <;> rfl

/-- Settles O1: the layout is the encoding, which the decoder reads back. -/
theorem decoderReadsTheSpecLayout : Obligations.DecoderReadsTheSpecLayout := fun i =>
  ⟨message_length i, message_eq_encode i ▸ decode_encode i⟩

/-! Messages that are no command. -/

theorem commandLength_layout (i : Instr) : commandLength (BitVec.ofNat 8 (layout i).1) = some (layout i).2.2 := by
  cases i <;> rfl

/-- The opcode of a message that decodes fixes the message's length (rules R91, R94). -/
theorem commandLength_of_decode {op : Byte} {body : List Byte} {i : Instr} (h : decode (op :: body) = .instr i) :
    commandLength op = some (body.length + 1) := by
  have hmsg : op :: body = message i := (decode_eq_instr_iff.1 h).trans (message_eq_encode i).symm
  have hlen : body.length + 1 = (layout i).2.2 := (congrArg List.length hmsg).trans (message_length i)
  obtain ⟨rfl, -⟩ := List.cons.inj (hmsg.trans (message_eq_cons i))
  rw [hlen, commandLength_layout]

/-- An opcode outside the ranges of rule R92 has no reader. -/
theorem operandReader_of_not_inTable {op : Byte} (h : ¬ opcodeInTable op.toNat) : operandReader op = none := by
  unfold operandReader
  generalize op.toNat = n at h
  split
  case h_25 => rfl
  all_goals simp [opcodeInTable] at h

/-- A message that is no command takes ILLEGAL_COMMAND. -/
theorem step_rejected_faulted {s : State} {msg : List Byte} {rest : List HostInput} {why : Rejection}
    (hs : s.inputs = .command msg :: rest) (hd : decode msg = .rejected why) :
    step s = .next (faulted .illegalCommand 1 { s with inputs := rest }) :=
  (step_rejected hs hd).trans (congrArg _ (takeFault_eq_faulted .illegalCommand _))

/-- Settles O5: an opcode outside the table has no reader, so the message is rejected whatever its body. -/
theorem reservedOpcodeTakesIllegalCommand : Obligations.ReservedOpcodeTakesIllegalCommand :=
  fun _ _ body _ hop hs => step_rejected_faulted hs (decode_of_reserved (operandReader_of_not_inTable hop) body)

/-- Settles O6: were the message a command, its opcode would have fixed its length. -/
theorem wrongLengthTakesIllegalCommand : Obligations.WrongLengthTakesIllegalCommand := by
  intro s i body rest hlen hs
  cases hd : decode (BitVec.ofNat 8 (layout i).1 :: body) with
  | rejected why => exact step_rejected_faulted hs hd
  | instr j =>
    have hfixed := commandLength_of_decode hd
    rw [commandLength_layout] at hfixed
    exact absurd (Option.some.inj hfixed).symm hlen

end Sys2Proof.Proofs

/-! The response of a command: a status byte and the result fields of the table (rules R83, R85, R90). -/

namespace Sys2Proof.Proofs

open Sys2Proof.Machine Sys2Proof.Claims

/-! A response as bytes, on plain numbers. -/

theorem directionField_eq_code (d : Direction) : directionField d = BitVec.ofNat 8 (directionCode d) := by
  cases d <;> rfl

theorem compField_eq_code (c : CompCode) : compField c = BitVec.ofNat 8 (compCode c) := by
  cases c <;> rfl

theorem resultBytes_eq_resultFields (r : Result) : resultBytes r = resultFields r := by
  cases r <;>
    simp [resultBytes, resultFields, measurementField, bytesMeasurement, directionField_eq_code, compField_eq_code]

theorem responseBytes_ok (r : Result) : responseBytes (.ok r) = bigEndian 1 0 ++ resultFields r := by
  simp [responseBytes, resultBytes_eq_resultFields]

theorem responseBytes_fault (c : FaultCode) : responseBytes (.fault c) = bigEndian 1 (statusCode c) := by
  cases c <;> rfl

theorem resultFields_length {i : Instr} {r : Result} (h : resultShape i r) :
    (resultFields r).length = resultLength i := by
  cases i with
  | new | newRaw | update | updateRaw => cases h; rfl
  | stepRange | ddDecode | mCalcBounds => obtain ⟨_, _, rfl⟩ := h; rfl
  | speed | position | steps | stepLower | stepUpper | stepComp | ssAdd | ssSub | ddEncode | dirInvert | speedNew | speedMul
  | mTransition | mCalcSpeed | mEstimate | mFromRaw | mTimeSince => obtain ⟨_, rfl⟩ := h; rfl

/-! Which result fields a command answers with. -/

/-- The outcome is a next state whose response has the result fields of the command, or is a fault. -/
def RespondsWithFieldsOf (i : Instr) (o : Host.Outcome State Fault Refusal) : Prop :=
  ∀ t, o = .next t → (∃ r, t.response = some (.ok r) ∧ resultShape i r) ∨ ∃ c, t.response = some (.fault c)

section respondsWithFieldsOf

variable {i : Instr} {s : State}

theorem respondsWithFieldsOf_raise (c : FaultCode) : RespondsWithFieldsOf i (raise c s) := by
  rintro t ⟨⟩
  exact .inr ⟨c, rfl⟩

theorem respondsWithFieldsOf_reply {r : Result} (h : resultShape i r) : RespondsWithFieldsOf i (reply r s) := by
  rintro t ⟨⟩
  exact .inl ⟨r, rfl, h⟩

/-- A check ahead of the rest of a command adds a fault and no other response. -/
theorem respondsWithFieldsOf_checked {p : Prop} [Decidable p] {c : FaultCode} {o : Host.Outcome State Fault Refusal}
    (h : RespondsWithFieldsOf i o) : RespondsWithFieldsOf i (if p then raise c s else o) := by
  by_cases hp : p
  · simpa [hp] using respondsWithFieldsOf_raise c
  · simpa [hp] using h

end respondsWithFieldsOf

/-- The commands by the number of checks ahead of their answer. -/
theorem exec_respondsWithFieldsOf (i : Instr) (s : State) : RespondsWithFieldsOf i (exec i s) := by
  cases i with
  | stepLower | stepUpper | stepComp | ssAdd | ssSub | speedNew | speedMul => exact respondsWithFieldsOf_reply ⟨_, rfl⟩
  | stepRange => exact respondsWithFieldsOf_reply ⟨_, _, rfl⟩
  | speed | position | steps | ddEncode | dirInvert | mFromRaw =>
    exact respondsWithFieldsOf_checked (respondsWithFieldsOf_reply ⟨_, rfl⟩)
  | ddDecode => exact respondsWithFieldsOf_checked (respondsWithFieldsOf_reply ⟨_, _, rfl⟩)
  | mTransition | mCalcSpeed | mEstimate | mTimeSince =>
    exact respondsWithFieldsOf_checked (respondsWithFieldsOf_checked (respondsWithFieldsOf_reply ⟨_, rfl⟩))
  | mCalcBounds =>
    exact respondsWithFieldsOf_checked (respondsWithFieldsOf_checked (respondsWithFieldsOf_reply ⟨_, _, rfl⟩))
  | newRaw | updateRaw =>
    exact respondsWithFieldsOf_checked (respondsWithFieldsOf_checked (respondsWithFieldsOf_reply rfl))
  | new | update =>
    exact respondsWithFieldsOf_checked
      (respondsWithFieldsOf_checked (respondsWithFieldsOf_checked (respondsWithFieldsOf_reply rfl)))

/-- Settles O7, from the response each command ends with and the bytes of every response. -/
theorem responseIsStatusThenResultFields : Obligations.ResponseIsStatusThenResultFields := by
  intro i s t hexec
  rcases exec_respondsWithFieldsOf i s t hexec with ⟨r, hr, hshape⟩ | ⟨c, hc⟩
  · exact .inl ⟨r, hr, hshape, responseBytes_ok r, resultFields_length hshape⟩
  · exact .inr ⟨c, hc, responseBytes_fault c⟩

end Sys2Proof.Proofs

/-! Step arithmetic (rules R102 to R107): a bound by the step's number, and the ranges of neighbouring steps. -/

namespace Sys2Proof.Proofs

open Sys2Proof.Machine Sys2Proof.Claims

theorem exec_stepLower (step : Word32) (cal : Calibration) (s : State) :
    exec (.stepLower step cal) s = .next (answered (.substep (lowerBound step cal)) s) := rfl

theorem exec_stepUpper (step : Word32) (cal : Calibration) (s : State) :
    exec (.stepUpper step cal) s = .next (answered (.substep (upperBound step cal)) s) := rfl

theorem exec_stepRange (step : Word32) (cal : Calibration) (s : State) :
    exec (.stepRange step cal) s = .next (answered (.range (lowerBound step cal) (upperBound step cal)) s) := rfl

/-- Settles O23: the upper bound of a step is by definition the lower bound of the next. -/
theorem stepRangesAreContiguous : Obligations.StepRangesAreContiguous := fun step cal s =>
  ⟨_, _, _, exec_stepRange step cal s, exec_stepRange (step + 1#32) cal s, exec_stepLower step cal s,
    exec_stepUpper step cal s⟩

/-! The parts of a step as numbers. -/

theorem phase_toNat (step : Word32) : (phase step).toNat = step.toNat % 4 := by
  simp [phase]

theorem cycle_toNat (step : Word32) : (cycle step).toNat = step.toNat / 4 := by
  simp [cycle, Nat.shiftRight_eq_div_pow]

theorem cycle_shift_toNat (step : Word32) :
    (cycle step <<< Config.cycleShift).toNat = step.toNat / 4 * 256 % 2 ^ 32 := by
  rw [BitVec.toNat_shiftLeft, cycle_toNat, Nat.shiftLeft_eq, Config.cycleShift]

theorem calEntry_toNat (cal : Calibration) (p : BitVec 2) : (calEntry cal p).toNat = entry cal p.toNat := by
  match p with
  | 0#2 | 1#2 | 2#2 | 3#2 => rfl

/-- The words' `lower_bound` is the numbers' (rule R104). -/
theorem lowerBound_toNat (step : Word32) (cal : Calibration) :
    (lowerBound step cal).toNat = lowerNumber step.toNat cal := by
  rw [lowerBound, BitVec.toNat_add, cycle_shift_toNat, calEntry_toNat, phase_toNat, lowerNumber, Nat.mod_add_mod]

/-- `2 ^ 26` steps are `2 ^ 24` cycles, which are `2 ^ 32` sub-steps. -/
theorem lowerNumber_add_period (n : Nat) (cal : Calibration) :
    lowerNumber ((n + 2 ^ 26) % 2 ^ 32) cal = lowerNumber n cal := by
  have samePhase : (n + 2 ^ 26) % 2 ^ 32 % 4 = n % 4 := by omega
  rw [lowerNumber, lowerNumber, samePhase]
  omega

theorem lowerBound_add_period (step : Word32) (cal : Calibration) :
    lowerBound (step + 0x04000000#32) cal = lowerBound step cal := by
  apply BitVec.eq_of_toNat_eq
  rw [lowerBound_toNat, lowerBound_toNat, BitVec.toNat_add]
  exact lowerNumber_add_period step.toNat cal

/-- Settles O21: the bound is R104's formula on numbers, which `2 ^ 26` further steps leave as it is. -/
theorem stepLowerIsCyclesPlusPhaseOffset : Obligations.StepLowerIsCyclesPlusPhaseOffset := by
  intro step cal s
  refine ⟨lowerBound step cal, exec_stepLower step cal s, lowerBound_toNat step cal, ?_⟩
  rw [exec_stepLower, lowerBound_add_period]

/-- Settles O22: the bound of the next step is R104's formula at the wrapped increment. -/
theorem stepUpperIsLowerBoundOfTheNextStep : Obligations.StepUpperIsLowerBoundOfTheNextStep := fun step cal s =>
  ⟨_, exec_stepUpper step cal s, exec_stepLower (step + 1#32) cal s, lowerBound_toNat (step + 1#32) cal⟩

end Sys2Proof.Proofs

/-! The width of a step's range (rules R106, R113). -/

namespace Sys2Proof.Proofs

open Sys2Proof.Machine Sys2Proof.Claims

/-- The sub-steps that the cycle part of the position gains in going past phase `p`: a cycle at the last phase. -/
def cycleCarry (p : BitVec 2) : Word32 := if p = 3#2 then 256#32 else 0#32

theorem cycleCarry_toNat (p : BitVec 2) : (cycleCarry p).toNat = if p.toNat = 3 then 256 else 0 := by
  match p with
  | 0#2 | 1#2 | 2#2 | 3#2 => rfl

theorem phase_add_one (step : Word32) : phase (step + 1#32) = phase step + 1#2 := by
  apply BitVec.eq_of_toNat_eq
  simp only [phase_toNat, BitVec.toNat_add, BitVec.toNat_ofNat]
  omega

/-- The cycle part gains the carry of the phase, the last cycle of all wrapping to the first (rules R103, R105). -/
theorem cycle_shift_add_one (step : Word32) :
    cycle (step + 1#32) <<< Config.cycleShift = cycle step <<< Config.cycleShift + cycleCarry (phase step) := by
  apply BitVec.eq_of_toNat_eq
  rw [BitVec.toNat_add, cycle_shift_toNat, cycle_shift_toNat, cycleCarry_toNat, phase_toNat, BitVec.toNat_add,
    BitVec.toNat_ofNat]
  split <;> omega

/-- The width of a phase, for all phases alike: from its entry to the next, a cycle further on after the last. -/
theorem calWidth_eq (cal : Calibration) (p : BitVec 2) :
    calWidth cal p = (cycleCarry p + calEntry cal (p + 1#2) - calEntry cal p).toInt := by
  match p with
  | 0#2 | 1#2 | 2#2 => simp [calWidth, cycleCarry, calEntry]
  | 3#2 => simp [calWidth, cycleCarry, calEntry, BitVec.add_comm]

/-- The range of a step has the width of the step's phase (rules R106, R113). -/
theorem upperBound_sub_lowerBound_toInt (step : Word32) (cal : Calibration) :
    (upperBound step cal - lowerBound step cal).toInt = calWidth cal (phase step) := by
  rw [calWidth_eq, upperBound, lowerBound, lowerBound, cycle_shift_add_one, phase_add_one, add_assoc,
    add_sub_add_left_eq_sub]

theorem calWidth_nonneg {cal : Calibration} (h : CalWellFormed cal) (p : BitVec 2) : 0 ≤ calWidth cal p := by
  obtain ⟨h0, h1, h2, h3⟩ := h
  match p with
  | 0#2 => exact h0
  | 1#2 => exact h1
  | 2#2 => exact h2
  | 3#2 => exact h3

/-- Of four widths that are not negative and sum to a cycle, none is wider than the cycle. -/
theorem calWidth_le_cycle {cal : Calibration} (h : CalProper cal) (p : BitVec 2) : calWidth cal p ≤ 256 := by
  obtain ⟨⟨h0, h1, h2, h3⟩, hsum⟩ := h
  match p with
  | 0#2 | 1#2 | 2#2 | 3#2 => omega

/-- Settles O25. -/
theorem rangeWidthIsThePhaseWidth : Obligations.RangeWidthIsThePhaseWidth := fun cal step =>
  ⟨upperBound_sub_lowerBound_toInt step cal,
    fun proper => ⟨calWidth_nonneg proper.1 _, calWidth_le_cycle proper _⟩⟩

/-- A table that goes once round the SubStep domain before it closes its cycle: no width is negative (log entry 6). -/
def wrappingCal : Calibration := ⟨0#32, 0x7FFFFFFF#32, 0xFFFFFFFE#32, 256#32⟩

theorem wrappingCal_wellFormed : CalWellFormed wrappingCal := by decide

theorem wrappingCal_widths_sum :
    calWidth wrappingCal 0#2 + calWidth wrappingCal 1#2 + calWidth wrappingCal 2#2 + calWidth wrappingCal 3#2 =
      2 ^ 32 + 256 := by decide

/-- Refutes O24: the widths of the wrapping table sum to a cycle and the whole domain. -/
theorem not_wellFormedWidthsSumTo256AsR113Infers : ¬ Obligations.WellFormedWidthsSumTo256AsR113Infers := by
  intro h
  obtain ⟨sum_eq, _, _⟩ := h wrappingCal wrappingCal_wellFormed
  exact absurd (wrappingCal_widths_sum.symm.trans sum_eq) (by decide)

end Sys2Proof.Proofs

/-! Positions on the 32-bit circle: which way, how far, and the signed readings (rules R100, R101, R108 to R111). -/

namespace Sys2Proof.Proofs

open Sys2Proof.Machine Sys2Proof.Claims

theorem exec_stepComp (a b : Word32) (s : State) :
    exec (.stepComp a b) s = .next (answered (.code (comp a b)) s) := rfl

theorem exec_ssAdd (a b : Word32) (s : State) :
    exec (.ssAdd a b) s = .next (answered (.substep (substepAdd a b)) s) := rfl

theorem exec_ssSub (a b : Word32) (s : State) :
    exec (.ssSub a b) s = .next (answered (.substep (substepSub a b)) s) := rfl

/-- The distance from `a` to `b` up the circle, on numbers. -/
theorem sub_toNat (a b : Word32) : (b - a).toNat = (b.toNat + 2 ^ 32 - a.toNat) % 2 ^ 32 := by
  rw [BitVec.toNat_sub]
  omega

section comp

variable {a b : Word32}

theorem comp_of_zero (h : (b - a).toNat = 0) : comp a b = .equal := by
  simp only [comp, h, if_true]

theorem comp_of_lt_half (pos : 0 < (b - a).toNat) (lt : (b - a).toNat < 2 ^ 31) : comp a b = .clockwise := by
  simp only [comp, pos.ne', lt, if_true, if_false]

theorem comp_of_half (h : (b - a).toNat = 2 ^ 31) : comp a b = .antipodal := by
  simp only [comp, h, Nat.reducePow, OfNat.ofNat_ne_zero, lt_irrefl, if_true, if_false]

theorem comp_of_half_lt (h : 2 ^ 31 < (b - a).toNat) : comp a b = .counterClockwise := by
  simp only [comp, Nat.ne_zero_of_lt h, h.not_gt, h.ne', if_false]

end comp

/-- The other way round the circle: what is left of it. -/
theorem sub_toNat_swap (a b : Word32) : (a - b).toNat = (2 ^ 32 - (b - a).toNat) % 2 ^ 32 := by
  rw [← neg_sub b a, BitVec.toNat_neg]

/-- The opposite direction (rule R108). -/
def opposite (c : CompCode) : CompCode :=
  match c with
  | .equal => .equal
  | .clockwise => .counterClockwise
  | .counterClockwise => .clockwise
  | .antipodal => .antipodal

/-- Exchanging the operands gives the opposite direction (rule R108). -/
theorem comp_swap (a b : Word32) : comp b a = opposite (comp a b) := by
  have back := sub_toNat_swap a b
  have bound := (b - a).isLt
  rcases Nat.eq_zero_or_pos (b - a).toNat with zero | pos
  · rw [comp_of_zero zero, comp_of_zero (by omega), opposite]
  rcases Nat.lt_trichotomy (b - a).toNat (2 ^ 31) with less | half | more
  · rw [comp_of_lt_half pos less, comp_of_half_lt (by omega), opposite]
  · rw [comp_of_half half, comp_of_half (by omega), opposite]
  · rw [comp_of_half_lt more, comp_of_lt_half (by omega) (by omega), opposite]

/-- Settles O26: one lemma for each range of the distance, and the exchanged operands give the opposite code. -/
theorem stepCompFollowsTheShorterWay : Obligations.StepCompFollowsTheShorterWay := by
  intro a b s
  rw [← sub_toNat]
  refine ⟨comp a b, opposite (comp a b), exec_stepComp a b s, comp_swap a b ▸ exec_stepComp b a s, fun zero => ?_,
    fun pos less => ?_, fun half => ?_, fun more => ?_⟩
  · simp [comp_of_zero zero, opposite]
  · simp [comp_of_lt_half pos less, opposite]
  · simp [comp_of_half half, opposite]
  · simp [comp_of_half_lt more, opposite]

/-- A signed 32-bit integer survives being stored in a word (rules R100, R101, R109). -/
theorem rawOfWord_wordOfInt {i : Int} (lo : -2 ^ 31 ≤ i) (hi : i < 2 ^ 31) : rawOfWord (wordOfInt i) = i :=
  BitVec.toInt_ofInt_eq_self (by decide) lo hi

/-- Settles O28. -/
theorem rawInvertsStepNew : Obligations.RawInvertsStepNew := fun _ => rawOfWord_wordOfInt

/-- Positions that are `d` apart modulo `2 ^ 32` differ by the word of `d` (rule R111). -/
theorem substepSub_of_displacement {a b : Word32} {d : Int} (h : (a.toNat : Int) = ((b.toNat : Int) + d) % 2 ^ 32) :
    substepSub a b = wordOfInt d := by
  apply BitVec.eq_of_toNat_eq
  rw [substepSub, sub_toNat, wordOfInt, BitVec.toNat_ofInt]
  have := b.isLt
  omega

/-- Settles O27: a difference is the word of the displacement, whose signed reading gives it back. -/
theorem substepSumAndDifferenceAreModular : Obligations.SubstepSumAndDifferenceAreModular := by
  intro a b s
  refine ⟨_, _, exec_ssAdd a b s, exec_ssSub a b s, BitVec.toNat_add a b, sub_toNat b a, fun d lo hi displaced => ?_⟩
  rw [substepSub_of_displacement displaced]
  exact rawOfWord_wordOfInt lo hi

end Sys2Proof.Proofs

/-! Direction fields: a field with no reserved bit set is the field of a Direction (rules R74, R89). -/

namespace Sys2Proof.Proofs

open Sys2Proof.Machine Sys2Proof.Claims

theorem directionField_toNat (d : Direction) : (directionField d).toNat = directionCode d := by
  cases d <;> rfl

@[simp] theorem fieldDirection_directionField (d : Direction) : fieldDirection (directionField d) = d := by
  cases d <;> rfl

theorem exists_directionField {dir : Byte} (h : dir.toNat < 2) : ∃ d, directionField d = dir := by
  have codes : dir.toNat = 0 ∨ dir.toNat = 1 := by omega
  rcases codes with zero | one
  · exact ⟨.clockwise, BitVec.eq_of_toNat_eq zero.symm⟩
  · exact ⟨.counterClockwise, BitVec.eq_of_toNat_eq one.symm⟩

@[simp] theorem reservedDir_directionField (d : Direction) : reservedDir (directionField d) = false := by
  cases d <;> rfl

theorem reservedDir_of_two_le {dir : Byte} (h : 2 ≤ dir.toNat) : reservedDir dir = true := by
  rw [reservedDir_eq_not_wf, dirFieldWf, decide_eq_false h.not_gt, Bool.not_false]

/-! DIR_INVERT (rules R131, R143). -/

theorem exec_dirInvert_directionField (d : Direction) (s : State) :
    exec (.dirInvert (directionField d)) s = .next (answered (.dir (invert d)) s) := by
  simp [exec, execDirInvert, reply, answer_eq_answered]

theorem exec_dirInvert_reserved {dir : Byte} (h : 2 ≤ dir.toNat) (s : State) :
    exec (.dirInvert dir) s = .next (faulted .illegalCommand 1 s) := by
  simp [exec, execDirInvert, reservedDir_of_two_le h, raise, takeFault_eq_faulted, faultNumber]

@[simp] theorem invert_invert (d : Direction) : invert (invert d) = d := by
  cases d <;> rfl

theorem directionCode_invert (d : Direction) : directionCode (invert d) = 1 - directionCode d := by
  cases d <;> rfl

/-- Settles O29, for the Direction that a field without reserved bits stands for. -/
theorem dirInvertExchangesTheDirections : Obligations.DirInvertExchangesTheDirections := by
  intro dir s
  refine ⟨fun wf => ?_, fun reserved => exec_dirInvert_reserved reserved s⟩
  obtain ⟨d, rfl⟩ := exists_directionField wf
  refine ⟨invert d, exec_dirInvert_directionField d s, ?_, exec_dirInvert_directionField (invert d) s, ?_⟩
  · rw [directionField_toNat, directionField_toNat, directionCode_invert]
  · rw [invert_invert]

end Sys2Proof.Proofs

/-! The packed word of direction and iterations (rules R132 to R139): each direction owns the half of the words below its
anchor. -/

namespace Sys2Proof.Proofs

open Sys2Proof.Machine Sys2Proof.Claims

theorem anchor_toNat (d : Direction) : (anchor d).toNat = (1 - directionCode d) * 2 ^ 31 := by
  cases d <;> rfl

theorem ddEncode_toNat (d : Direction) (k : Word32) :
    (ddEncode d k).toNat = ((1 - directionCode d) * 2 ^ 31 + 2 ^ 32 - k.toNat) % 2 ^ 32 := by
  rw [ddEncode, sub_toNat, anchor_toNat]

/-! The direction of a word. -/

theorem ddDirection_of_neg {raw : Word32} (h : raw.toInt < 0) : ddDirection raw = .counterClockwise := if_pos h

theorem ddDirection_of_nonneg {raw : Word32} (h : 0 ≤ raw.toInt) : ddDirection raw = .clockwise := if_neg h.not_gt

/-- Clockwise owns the lower half of the words, CounterClockwise the upper (rules R133, R135). -/
theorem ddDirection_eq (raw : Word32) :
    ddDirection raw = if raw.toNat < 2 ^ 31 then .clockwise else .counterClockwise := by
  by_cases lower : raw.toNat < 2 ^ 31
  · rw [if_pos lower, ddDirection_of_nonneg (BitVec.toInt_pos_iff.2 (by omega))]
  · rw [if_neg lower, ddDirection_of_neg (BitVec.toInt_neg_iff.2 (by omega))]

theorem ddDirection_eq_clockwise_iff (raw : Word32) : ddDirection raw = .clockwise ↔ raw.toNat < 2 ^ 31 := by
  simp [ddDirection_eq]

/-- A word with 1 to `2 ^ 31` iterations lies in the half its direction owns (rule R133). -/
theorem ddDirection_ddEncode (d : Direction) {k : Word32} (pos : 1 ≤ k.toNat) (le : k.toNat ≤ 2 ^ 31) :
    ddDirection (ddEncode d k) = d := by
  rw [ddDirection_eq, ddEncode_toNat]
  cases d with
  | clockwise => exact if_pos (by simp only [directionCode]; omega)
  | counterClockwise => exact if_neg (by simp only [directionCode]; omega)

/-! The iteration count of a word. -/

theorem iterations_pos (raw : Word32) : 1 ≤ iterations raw := by
  unfold iterations
  omega

theorem iterations_le_half (raw : Word32) : iterations raw ≤ 2 ^ 31 := Nat.sub_le _ _

/-- The distance to the anchor is what the low 31 bits leave of `2 ^ 31`, in either half (rule R136). -/
theorem ddIterations_eq_iterations (raw : Word32) : ddIterations raw = iterations raw := by
  have bound := raw.isLt
  rw [ddIterations, sub_toNat, anchor_toNat, iterations, ddDirection_eq]
  split_ifs with lower
  · simp only [directionCode]; omega
  · simp only [directionCode]; omega

/-- Decoding a word in the half of its direction takes the iterations back off the anchor (rules R133, R135). -/
theorem ddIterations_ddEncode {d : Direction} {k : Word32} (own : ddDirection (ddEncode d k) = d) :
    ddIterations (ddEncode d k) = k.toNat := by
  rw [ddIterations, own, ddEncode, sub_sub_cancel]

/-! With no iterations the word is the anchor, which lies in the other direction's half (rules R137, R139). -/

theorem ddEncode_zero (d : Direction) : ddEncode d 0#32 = anchor d := BitVec.sub_zero _

theorem ddDirection_anchor (d : Direction) : ddDirection (anchor d) = invert d := by
  cases d <;> rfl

theorem iterations_anchor (d : Direction) : iterations (anchor d) = 2 ^ 31 := by
  cases d <;> rfl

/-- Settles O32: within 1 to `2 ^ 31` the word stays in its direction's half, and with none it is the anchor. -/
theorem directionAndIterationsRoundTrip : Obligations.DirectionAndIterationsRoundTrip := by
  intro d k
  refine ⟨fun pos le => ?_, fun zero => ?_⟩
  · have own := ddDirection_ddEncode d pos le
    exact ⟨own, ddIterations_ddEncode own⟩
  · obtain rfl : k = 0#32 := BitVec.eq_of_toNat_eq zero
    rw [ddEncode_zero, ddIterations_eq_iterations]
    exact ⟨ddDirection_anchor d, iterations_anchor d⟩

/-! DD_ENCODE (rules R133, R142). -/

theorem exec_ddEncode_directionField (d : Direction) (k : Word32) (s : State) :
    exec (.ddEncode (directionField d) k) s = .next (answered (.ddRaw (ddEncode d k)) s) := by
  simp [exec, execDdEncode, reply, answer_eq_answered]

theorem exec_ddEncode_reserved {dir : Byte} (h : 2 ≤ dir.toNat) (k : Word32) (s : State) :
    exec (.ddEncode dir k) s = .next (faulted .illegalCommand 1 s) := by
  simp [exec, execDdEncode, reservedDir_of_two_le h, raise, takeFault_eq_faulted, faultNumber]

theorem directionCode_eq_zero_iff (d : Direction) : directionCode d = 0 ↔ d = .clockwise := by
  cases d <;> simp [directionCode]

/-- Settles O30: the encoded word's half is the one from which its direction is decoded. -/
theorem ddEncodeIsAnchorLessIterations : Obligations.DdEncodeIsAnchorLessIterations := by
  intro dir k s
  refine ⟨fun wf => ?_, fun reserved => exec_ddEncode_reserved reserved k s⟩
  obtain ⟨d, rfl⟩ := exists_directionField wf
  rw [directionField_toNat]
  refine ⟨ddEncode d k, exec_ddEncode_directionField d k s, ddEncode_toNat d k, fun pos le => ?_⟩
  rw [← ddDirection_eq_clockwise_iff, ddDirection_ddEncode d pos le, directionCode_eq_zero_iff]

end Sys2Proof.Proofs

/-! DD_DECODE (rules R135 to R138, R141): the elapsed time, exact until the cycle count saturates. -/

namespace Sys2Proof.Proofs

open Sys2Proof.Machine Sys2Proof.Claims

theorem exec_ddDecode {ticks : Word32} (h : ticks.toNat ≠ 0) (raw : Word32) (s : State) :
    exec (.ddDecode raw ticks) s = .next (answered (.dirDuration (ddDirection raw) (ddDurationUs raw ticks)) s) :=
  if_neg h

theorem exec_ddDecode_zeroClock {ticks : Word32} (h : ticks.toNat = 0) (raw : Word32) (s : State) :
    exec (.ddDecode raw ticks) s = .next (faulted .zeroClock 4 s) :=
  if_pos h

/-- Steps 3 and 4 of `decode` on numbers (rule R135): the quotient of the saturated cycle count fits its word. -/
theorem ddDurationUs_toNat (raw ticks : Word32) :
    (ddDurationUs raw ticks).toNat = min (iterations raw * 13) (2 ^ 32 - 1) / ticks.toNat := by
  have saturated : min (iterations raw * 13) (2 ^ 32 - 1) < 2 ^ 32 := by omega
  rw [ddDurationUs, satMulU32, ddIterations_eq_iterations, BitVec.toNat_ofNat]
  exact Nat.mod_eq_of_lt ((Nat.div_le_self _ _).trans_lt saturated)

/-- Settles O31. -/
theorem ddDecodeGivesDirectionAndDuration : Obligations.DdDecodeGivesDirectionAndDuration := fun raw ticks s =>
  ⟨fun running => ⟨_, _, exec_ddDecode running raw s, ddDirection_of_neg, ddDirection_of_nonneg,
      ddIterations_eq_iterations raw, iterations_pos raw, iterations_le_half raw, ddDurationUs_toNat raw ticks⟩,
    fun zero => exec_ddDecode_zeroClock zero raw s⟩

/-- From 330,382,100 iterations on, 13 cycles each are more than a word32 holds (rule R138). -/
theorem ddDurationUs_saturated {raw : Word32} (h : 330382100 ≤ iterations raw) (ticks : Word32) :
    (ddDurationUs raw ticks).toNat = (2 ^ 32 - 1) / ticks.toNat := by
  rw [ddDurationUs_toNat, Nat.min_eq_right (by omega)]

theorem ddDurationUs_exact {raw : Word32} (h : iterations raw < 330382100) (ticks : Word32) :
    (ddDurationUs raw ticks).toNat = iterations raw * 13 / ticks.toNat := by
  rw [ddDurationUs_toNat, Nat.min_eq_left (by omega)]

/-- An anchor word reads as `2 ^ 31` iterations of the other direction (rule R137), which saturate. -/
theorem ddDurationUs_anchor (d : Direction) (ticks : Word32) :
    (ddDurationUs (anchor d) ticks).toNat = (2 ^ 32 - 1) / ticks.toNat :=
  ddDurationUs_saturated (by rw [iterations_anchor]; decide) ticks

/-- Settles O33: on either side of the threshold, and at the two anchors, which lie above it. -/
theorem decodedDurationSaturates : Obligations.DecodedDurationSaturates := by
  intro raw ticks s running
  refine ⟨_, _, exec_ddDecode running raw s, fun above => ddDurationUs_saturated above ticks,
    fun below => ddDurationUs_exact below ticks, ?_, ?_⟩
  · rintro rfl
    exact ⟨ddDirection_anchor .clockwise, ddDurationUs_anchor .clockwise ticks⟩
  · rintro rfl
    exact ⟨ddDirection_anchor .counterClockwise, ddDurationUs_anchor .counterClockwise ticks⟩

end Sys2Proof.Proofs

/-! Speeds (rules R184 to R188): `Speed::new` is monotone in the delta, and what a speed covers in the duration it was made
for stays within the delta. -/

namespace Sys2Proof.Proofs

open Sys2Proof.Machine Sys2Proof.Claims

theorem exec_speedNew (delta : Word32) (duration : Word64) (s : State) :
    exec (.speedNew delta duration) s = .next (answered (.speed (makeSpeed delta duration.toNat)) s) := rfl

/-! The clamp of a quotient (rule R13). -/

theorem clampS32_mono {p q : Int} (h : p ≤ q) : clampS32 p ≤ clampS32 q := by
  unfold clampS32
  omega

theorem clampS32_le_of_nonneg {q : Int} (h : 0 ≤ q) : clampS32 q ≤ q := by
  unfold clampS32 Config.speedMin Config.speedMax
  omega

theorem le_clampS32_of_nonpos {q : Int} (h : q ≤ 0) : q ≤ clampS32 q := by
  unfold clampS32 Config.speedMin Config.speedMax
  omega

/-! `Speed::new`, by the kind of its duration. -/

theorem duration_cases (t : Int) : (t < 0 ∨ 2 ^ 32 ≤ t) ∨ t = 0 ∨ (0 < t ∧ t < 2 ^ 32) := by
  omega

theorem makeSpeed_unfit_toInt {delta : Word32} {t : Int} (h : t < 0 ∨ 2 ^ 32 ≤ t) : (makeSpeed delta t).toInt = 0 := by
  rw [makeSpeed_unfit h]
  rfl

theorem makeSpeed_zero_toInt (delta : Word32) :
    (makeSpeed delta 0).toInt = if 0 < delta.toInt then 2 ^ 31 - 1 else if delta.toInt < 0 then -2 ^ 31 else 0 := by
  rw [makeSpeed_zero]
  split_ifs <;> rfl

/-- No displacement in whatever time is no speed (rule R185 (e)). -/
theorem makeSpeed_of_no_delta {delta : Word32} (h : delta.toInt = 0) (t : Int) : (makeSpeed delta t).toInt = 0 := by
  rcases duration_cases t with unfit | rfl | ⟨pos, fit⟩
  · exact makeSpeed_unfit_toInt unfit
  · rw [makeSpeed_zero_toInt, h]
    rfl
  · rw [makeSpeed_fit_toInt pos fit, h, zero_mul, Int.zero_tdiv]
    rfl

/-- A greater displacement in the same time is no lesser speed (rule R185 (c)). -/
theorem makeSpeed_mono {a b : Word32} (h : a.toInt ≤ b.toInt) (t : Int) :
    (makeSpeed a t).toInt ≤ (makeSpeed b t).toInt := by
  rcases duration_cases t with unfit | rfl | ⟨pos, fit⟩
  · rw [makeSpeed_unfit_toInt unfit, makeSpeed_unfit_toInt unfit]
  · rw [makeSpeed_zero_toInt, makeSpeed_zero_toInt]
    split_ifs <;> omega
  · rw [makeSpeed_fit_toInt pos fit, makeSpeed_fit_toInt pos fit]
    exact clampS32_mono (Int.tdiv_le_tdiv pos (by omega))

/-- A speed has the sign of its delta or is 0 (rule R185 (d)). -/
theorem makeSpeed_nonneg {delta : Word32} (h : 0 ≤ delta.toInt) (t : Int) : 0 ≤ (makeSpeed delta t).toInt :=
  (makeSpeed_of_no_delta BitVec.toInt_zero t).ge.trans (makeSpeed_mono (BitVec.toInt_zero.trans_le h) t)

theorem makeSpeed_nonpos {delta : Word32} (h : delta.toInt ≤ 0) (t : Int) : (makeSpeed delta t).toInt ≤ 0 :=
  (makeSpeed_mono (h.trans_eq BitVec.toInt_zero.symm) t).trans_eq (makeSpeed_of_no_delta BitVec.toInt_zero t)

/-! A speed times its duration: truncation, clamping and the unfit durations only bring the product nearer to 0. -/

theorem makeSpeed_mul_le {delta : Word32} {t : Int} (h : 0 ≤ delta.toInt) :
    (makeSpeed delta t).toInt * t ≤ delta.toInt * 2 ^ 20 := by
  rcases duration_cases t with unfit | rfl | ⟨pos, fit⟩
  · rw [makeSpeed_unfit_toInt unfit]
    omega
  · omega
  · have scaled : 0 ≤ delta.toInt * 2 ^ 20 := by omega
    rw [makeSpeed_fit_toInt pos fit, Int.tdiv_eq_ediv_of_nonneg scaled]
    calc clampS32 (delta.toInt * 2 ^ 20 / t) * t
      _ ≤ delta.toInt * 2 ^ 20 / t * t :=
        Int.mul_le_mul_of_nonneg_right (clampS32_le_of_nonneg (Int.ediv_nonneg scaled pos.le)) pos.le
      _ ≤ delta.toInt * 2 ^ 20 := Int.ediv_mul_le _ pos.ne'

theorem le_makeSpeed_mul {delta : Word32} {t : Int} (h : delta.toInt ≤ 0) :
    delta.toInt * 2 ^ 20 ≤ (makeSpeed delta t).toInt * t := by
  rcases duration_cases t with unfit | rfl | ⟨pos, fit⟩
  · rw [makeSpeed_unfit_toInt unfit]
    omega
  · omega
  · have truncated : (delta.toInt * 2 ^ 20).tdiv t = -(-(delta.toInt * 2 ^ 20) / t) := by
      rw [← Int.tdiv_eq_ediv_of_nonneg (by omega), Int.neg_tdiv, neg_neg]
    have quotient : 0 ≤ -(delta.toInt * 2 ^ 20) / t := Int.ediv_nonneg (by omega) pos.le
    have back := Int.ediv_mul_le (-(delta.toInt * 2 ^ 20)) pos.ne'
    rw [makeSpeed_fit_toInt pos fit, truncated]
    calc delta.toInt * 2 ^ 20
      _ ≤ -(-(delta.toInt * 2 ^ 20) / t) * t := by rw [neg_mul]; omega
      _ ≤ clampS32 (-(-(delta.toInt * 2 ^ 20) / t)) * t :=
        Int.mul_le_mul_of_nonneg_right (le_clampS32_of_nonpos (by omega)) pos.le

/-! `speed * duration` (rule R187). -/

/-- Bits 51:20 of the wrapped product are the floor of the true displacement, modulo `2 ^ 32`. -/
theorem mulSpeed_eq_floor (v : Word32) (d : Word64) :
    mulSpeed v d = BitVec.ofInt 32 (v.toInt * d.toNat / 2 ^ 20) := by
  apply BitVec.eq_of_toNat_eq
  rw [mulSpeed, BitVec.extractLsb'_toNat, BitVec.toNat_ofInt, BitVec.toNat_ofInt, Nat.shiftRight_eq_div_pow,
    Config.speedShift]
  omega

/-- A displacement between two words' values is read back between them. -/
theorem mulSpeed_toInt_between {a b v : Word32} {d : Word64} (lo : a.toInt * 2 ^ 20 ≤ v.toInt * d.toNat)
    (hi : v.toInt * d.toNat ≤ b.toInt * 2 ^ 20) :
    a.toInt ≤ (mulSpeed v d).toInt ∧ (mulSpeed v d).toInt ≤ b.toInt := by
  have least := a.le_toInt
  have greatest := b.toInt_lt
  rw [mulSpeed_eq_floor, BitVec.toInt_ofInt_eq_self (by decide) (by omega) (by omega)]
  omega

/-- A speed between those of a backward and a forward displacement over the same time covers, in that time, a displacement
between the two (rule R188). -/
theorem mulSpeed_between_of_clamped {a b v : Word32} {d : Word64} (back : a.toInt ≤ 0) (forth : 0 ≤ b.toInt)
    (lo : (makeSpeed a d.toNat).toInt ≤ v.toInt) (hi : v.toInt ≤ (makeSpeed b d.toNat).toInt) :
    a.toInt ≤ (mulSpeed v d).toInt ∧ (mulSpeed v d).toInt ≤ b.toInt :=
  mulSpeed_toInt_between
    ((le_makeSpeed_mul back).trans (Int.mul_le_mul_of_nonneg_right lo (Int.natCast_nonneg _)))
    ((Int.mul_le_mul_of_nonneg_right hi (Int.natCast_nonneg _)).trans (makeSpeed_mul_le forth))

end Sys2Proof.Proofs

/-! The commands on Measurements (rules R150 to R172), on good records: what each answers, from the functions of the rules. -/

namespace Sys2Proof.Proofs

open Sys2Proof.Machine Sys2Proof.Claims

theorem exec_mFromRaw {raw : RawRecord} (h : raw.ticks.toNat ≠ 0) (s : State) :
    exec (.mFromRaw raw) s = .next (answered (.measurement (fromRaw raw)) s) :=
  if_neg h

theorem exec_mFromRaw_zeroClock {raw : RawRecord} (h : raw.ticks.toNat = 0) (s : State) :
    exec (.mFromRaw raw) s = .next (faulted .zeroClock 4 s) :=
  if_pos h

theorem exec_mTimeSince_of_good {m : MeasurementRecord} (h : Good m) (s : State) :
    exec (.mTimeSince m) s = .next (answered (.duration (timeSince (fieldMeasurement m))) s) := by
  simp [exec, execMTimeSince, reservedDir_of_good h, validRecord_of_good h, reply, answer_eq_answered]

section twoRecords

variable {prev curr : MeasurementRecord}

theorem exec_mCalcSpeed_of_good (hp : Good prev) (hc : Good curr) (cal : Calibration) (s : State) :
    exec (.mCalcSpeed prev curr cal) s =
      .next (answered (.speed (calculateSpeed (fieldMeasurement prev) (fieldMeasurement curr) cal)) s) := by
  simp [exec, execMCalcSpeed, reservedDir_of_good hp, reservedDir_of_good hc, validRecord_of_good hp,
    validRecord_of_good hc, reply, answer_eq_answered]

theorem exec_mCalcBounds_of_good (hp : Good prev) (hc : Good curr) (cal : Calibration) (s : State) :
    exec (.mCalcBounds prev curr cal) s =
      .next (answered (.bounds (speedBounds (fieldMeasurement prev) (fieldMeasurement curr) cal).1
        (speedBounds (fieldMeasurement prev) (fieldMeasurement curr) cal).2) s) := by
  simp [exec, execMCalcBounds, reservedDir_of_good hp, reservedDir_of_good hc, validRecord_of_good hp,
    validRecord_of_good hc, reply, answer_eq_answered]

theorem exec_mEstimate_of_good (hp : Good prev) (hc : Good curr) (last : Word32) (cal : Calibration) (s : State) :
    exec (.mEstimate last prev curr cal) s =
      .next (answered (.speed (estimateSpeed last (fieldMeasurement prev) (fieldMeasurement curr) cal)) s) := by
  simp [exec, execMEstimate, reservedDir_of_good hp, reservedDir_of_good hc, validRecord_of_good hp,
    validRecord_of_good hc, reply, answer_eq_answered]

end twoRecords

/-! The stamp of an edge and the time since (rules R153, R154). -/

theorem fromRaw_stepInstant_toNat (raw : RawRecord) :
    (fromRaw raw).stepInstant.toNat = raw.sampleInstant.toNat - (ddDurationUs raw.ddRaw raw.ticks).toNat := by
  have bound := raw.sampleInstant.isLt
  rw [fromRaw, satSubU64, BitVec.toNat_ofNat]
  split <;> omega

/-- Settles O38: a difference of numbers that stops at 0 covers both cases of the elapsed time. -/
theorem mFromRawSubtractsTheElapsedTime : Obligations.MFromRawSubtractsTheElapsedTime := by
  intro raw s
  refine ⟨fun running => ?_, fun zero => exec_mFromRaw_zeroClock zero s⟩
  have stamp := fromRaw_stepInstant_toNat raw
  exact ⟨_, _, exec_mFromRaw running s, exec_ddDecode running raw.ddRaw s, rfl, rfl, fun _ => stamp,
    fun early => stamp.trans (Nat.sub_eq_zero_of_le early.le), fromRaw_valid raw⟩

/-- Settles O40. -/
theorem mTimeSinceIsTheExactDifference : Obligations.MTimeSinceIsTheExactDifference := by
  intro m s good
  refine ⟨_, exec_mTimeSince_of_good good s, ?_⟩
  have ordered : m.stepInstant.toNat ≤ m.sampleInstant.toNat := good.2
  rw [timeSince_toNat ordered]
  exact Nat.sub_add_cancel ordered

/-! The transition: the bound through which the edge entered (rule R155). -/

theorem transition_of_clockwise {m : Measurement} (h : m.direction = .clockwise) (cal : Calibration) :
    transition m cal = lowerBound m.step cal := by
  rw [transition, h]

theorem transition_of_counterClockwise {m : Measurement} (h : m.direction = .counterClockwise) (cal : Calibration) :
    transition m cal = upperBound m.step cal := by
  rw [transition, h]

theorem fieldDirection_of_zero {dir : Byte} (h : dir.toNat = 0) : fieldDirection dir = .clockwise := by
  obtain rfl : dir = 0#8 := BitVec.eq_of_toNat_eq h
  rfl

theorem fieldDirection_of_one {dir : Byte} (h : dir.toNat = 1) : fieldDirection dir = .counterClockwise := by
  obtain rfl : dir = 1#8 := BitVec.eq_of_toNat_eq h
  rfl

/-- Settles O39, by the direction of the edge. -/
theorem mTransitionIsTheBoundTheEdgeEntered : Obligations.MTransitionIsTheBoundTheEdgeEntered := by
  intro m cal s good
  refine ⟨_, exec_mTransition_of_good good cal s, fun clockwise => ?_, fun counterClockwise => ?_⟩
  · rw [transition_of_clockwise (fieldDirection_of_zero clockwise), exec_stepLower, fieldMeasurement]
  · rw [transition_of_counterClockwise (fieldDirection_of_one counterClockwise), exec_stepUpper, fieldMeasurement]

/-! The exact speed between two edges (rule R157). -/

theorem calculateSpeed_of_backward {prev curr : Measurement} (h : curr.stepInstant.toNat < prev.stepInstant.toNat)
    (cal : Calibration) : calculateSpeed prev curr cal = 0#32 :=
  if_pos (by omega)

theorem calculateSpeed_of_forward {prev curr : Measurement} {dt : Nat}
    (h : prev.stepInstant.toNat + dt = curr.stepInstant.toNat) (cal : Calibration) :
    calculateSpeed prev curr cal = makeSpeed (substepSub (transition curr cal) (transition prev cal)) dt := by
  have elapsed : (curr.stepInstant.toNat : Int) - prev.stepInstant.toNat = dt := by omega
  rw [calculateSpeed, elapsed]
  exact if_neg (Int.natCast_nonneg dt).not_gt

/-- Settles O41. -/
theorem mCalcSpeedIsTheExactEdgeToEdgeSpeed : Obligations.MCalcSpeedIsTheExactEdgeToEdgeSpeed := by
  intro prev curr cal s hp hc
  refine ⟨_, _, _, _, exec_mCalcSpeed_of_good hp hc cal s, exec_mTransition_of_good hc cal s,
    exec_mTransition_of_good hp cal s, exec_ssSub _ _ s, fun backward => calculateSpeed_of_backward backward cal,
    fun dt forward => ?_⟩
  rw [exec_speedNew, calculateSpeed_of_forward forward]

/-! The window of an estimate and the bounds over it (rules R158 to R162). -/

section window

variable {prev curr : Measurement}

theorem selectWindow_pollToEdge {a b : Nat} (ha : prev.sampleInstant.toNat + a = curr.stepInstant.toNat)
    (hb : curr.stepInstant.toNat + b = curr.sampleInstant.toNat) (larger : b < a) :
    selectWindow prev curr = .pollToEdge a := by
  have windowA : curr.stepInstant.toNat - prev.sampleInstant.toNat = a := by omega
  have windowB : (timeSince curr).toNat = b := by rw [timeSince_toNat (by omega)]; omega
  rw [selectWindow, windowA, windowB]
  exact if_pos ⟨by omega, larger⟩

theorem selectWindow_edgeToNow {b : Nat} (hb : curr.stepInstant.toNat + b = curr.sampleInstant.toNat)
    (notLarger : curr.stepInstant.toNat ≤ prev.sampleInstant.toNat + b) : selectWindow prev curr = .edgeToNow b := by
  have windowB : (timeSince curr).toNat = b := by rw [timeSince_toNat (by omega)]; omega
  rw [selectWindow, windowB]
  exact if_neg (by omega)

/-- Window B, where it is selected, is the time since the edge. -/
theorem timeSince_of_edgeToNow {b : Nat} (h : selectWindow prev curr = .edgeToNow b) : (timeSince curr).toNat = b := by
  simp only [selectWindow] at h
  split_ifs at h
  exact Window.edgeToNow.inj h

theorem speedBounds_of_pollToEdge {a : Nat} (h : selectWindow prev curr = .pollToEdge a) (cal : Calibration) :
    speedBounds prev curr cal =
      (makeSpeed (substepSub (transition curr cal) (upperBound prev.step cal)) a,
        makeSpeed (substepSub (transition curr cal) (lowerBound prev.step cal)) a) := by
  rw [speedBounds, h]

theorem speedBounds_of_edgeToNow {b : Nat} (h : selectWindow prev curr = .edgeToNow b) (cal : Calibration) :
    speedBounds prev curr cal =
      (makeSpeed (substepSub (lowerBound curr.step cal) (transition curr cal)) b,
        makeSpeed (substepSub (upperBound curr.step cal) (transition curr cal)) b) := by
  rw [speedBounds, h]

end window

/-- Settles O42, window by window. -/
theorem mCalcBoundsUsesTheLargerWindow : Obligations.MCalcBoundsUsesTheLargerWindow := by
  intro prev curr cal s hp hc
  refine ⟨_, _, _, exec_mCalcBounds_of_good hp hc cal s, exec_mTransition_of_good hc cal s,
    fun a b ha hb larger => ?_, fun b hb notLarger => ?_⟩
  · rw [speedBounds_of_pollToEdge (selectWindow_pollToEdge ha hb larger)]
    exact ⟨exec_speedNew _ a s, exec_speedNew _ a s⟩
  · rw [speedBounds_of_edgeToNow (selectWindow_edgeToNow hb notLarger)]
    exact ⟨exec_speedNew _ b s, exec_speedNew _ b s⟩

end Sys2Proof.Proofs

/-! Where the transition lies in its step's range, and the order of the bounds that follows from it (rules R113, R155,
R162). -/

namespace Sys2Proof.Proofs

open Sys2Proof.Machine Sys2Proof.Claims

/-- A displacement that is not negative, taken backward: `-2 ^ 31` is not met, so it has the opposite number. -/
theorem sub_toInt_swap {a b : Word32} (h : 0 ≤ (a - b).toInt) : (b - a).toInt = -(a - b).toInt := by
  have notLeast : a - b ≠ BitVec.intMin 32 := fun least => absurd (least ▸ h) (by decide)
  rw [← neg_sub a b, BitVec.toInt_neg_of_ne_intMin notLeast]

theorem upperBound_sub_lowerBound_nonneg {cal : Calibration} (wf : CalWellFormed cal) (step : Word32) :
    0 ≤ (upperBound step cal - lowerBound step cal).toInt := by
  rw [upperBound_sub_lowerBound_toInt]
  exact calWidth_nonneg wf _

theorem lowerBound_sub_upperBound_toInt {cal : Calibration} (wf : CalWellFormed cal) (step : Word32) :
    (lowerBound step cal - upperBound step cal).toInt = -calWidth cal (phase step) := by
  rw [sub_toInt_swap (upperBound_sub_lowerBound_nonneg wf step), upperBound_sub_lowerBound_toInt]

theorem lowerBound_sub_upperBound_nonpos {cal : Calibration} (wf : CalWellFormed cal) (step : Word32) :
    (lowerBound step cal - upperBound step cal).toInt ≤ 0 := by
  rw [lowerBound_sub_upperBound_toInt wf]
  exact neg_nonpos.2 (calWidth_nonneg wf _)

theorem transition_eq_bound (m : Measurement) (cal : Calibration) :
    transition m cal = lowerBound m.step cal ∨ transition m cal = upperBound m.step cal := by
  cases hd : m.direction with
  | clockwise => exact .inl (transition_of_clockwise hd cal)
  | counterClockwise => exact .inr (transition_of_counterClockwise hd cal)

/-- From the transition of an edge the lower bound of its step lies behind and the upper ahead. -/
theorem range_from_transition {cal : Calibration} (wf : CalWellFormed cal) (m : Measurement) :
    (substepSub (lowerBound m.step cal) (transition m cal)).toInt ≤ 0 ∧
      0 ≤ (substepSub (upperBound m.step cal) (transition m cal)).toInt := by
  unfold substepSub
  rcases transition_eq_bound m cal with lower | upper
  · rw [lower, sub_self]
    exact ⟨BitVec.toInt_zero.le, upperBound_sub_lowerBound_nonneg wf m.step⟩
  · rw [upper, sub_self]
    exact ⟨lowerBound_sub_upperBound_nonpos wf m.step, BitVec.toInt_zero.ge⟩

/-- To the transition of an edge it is not forward from the upper bound of its step, and not backward from the lower. -/
theorem transition_from_range {cal : Calibration} (wf : CalWellFormed cal) (m : Measurement) :
    (substepSub (transition m cal) (upperBound m.step cal)).toInt ≤ 0 ∧
      0 ≤ (substepSub (transition m cal) (lowerBound m.step cal)).toInt := by
  unfold substepSub
  rcases transition_eq_bound m cal with lower | upper
  · rw [lower, sub_self]
    exact ⟨lowerBound_sub_upperBound_nonpos wf m.step, BitVec.toInt_zero.ge⟩
  · rw [upper, sub_self]
    exact ⟨BitVec.toInt_zero.le, upperBound_sub_lowerBound_nonneg wf m.step⟩

/-- A position is at least as far past the lower bound of a range as past the upper one, while the farther displacement is
still in the signed range. -/
theorem sub_upperBound_le_sub_lowerBound {cal : Calibration} (wf : CalWellFormed cal) (t step : Word32)
    (fits : (t - upperBound step cal).toInt + calWidth cal (phase step) ≤ 2 ^ 31 - 1) :
    (t - upperBound step cal).toInt ≤ (t - lowerBound step cal).toInt := by
  have width := calWidth_nonneg wf (phase step)
  have least := (t - upperBound step cal).le_toInt
  have split : t - lowerBound step cal = (t - upperBound step cal) + (upperBound step cal - lowerBound step cal) :=
    (sub_add_sub_cancel _ _ _).symm
  rw [split, BitVec.toInt_add, upperBound_sub_lowerBound_toInt, Int.bmod_eq_of_le (by omega) (by omega)]
  omega

/-- Over window B the bounds lie on the two sides of 0, whatever the previous step (rule R162). -/
theorem speedBounds_around_zero_of_edgeToNow {prev curr : Measurement} {cal : Calibration} {b : Nat}
    (wf : CalWellFormed cal) (h : selectWindow prev curr = .edgeToNow b) :
    (speedBounds prev curr cal).1.toInt ≤ 0 ∧ 0 ≤ (speedBounds prev curr cal).2.toInt := by
  obtain ⟨behind, ahead⟩ := range_from_transition wf curr
  rw [speedBounds_of_edgeToNow h]
  exact ⟨makeSpeed_nonpos behind _, makeSpeed_nonneg ahead _⟩

/-- Settles O43: over window A the deltas are ordered, over window B 0 lies between. -/
theorem boundsAreOrderedForAWellFormedCalibration : Obligations.BoundsAreOrderedForAWellFormedCalibration := by
  intro prev curr cal wf premise
  cases hw : selectWindow prev curr with
  | pollToEdge a =>
    obtain ⟨narrow, fits⟩ := premise ⟨a, hw⟩
    rw [speedBounds_of_pollToEdge hw]
    exact makeSpeed_mono (sub_upperBound_le_sub_lowerBound wf _ _ (by omega)) _
  | edgeToNow b =>
    obtain ⟨lo, hi⟩ := speedBounds_around_zero_of_edgeToNow wf hw
    exact lo.trans hi

/-- Settles O44: with the step unchanged the range of window A is the one that holds the transition, too. -/
theorem zeroLiesInTheBoundsOfAnUnchangedStep : Obligations.ZeroLiesInTheBoundsOfAnUnchangedStep := by
  intro prev curr cal wf unchanged
  cases hw : selectWindow prev curr with
  | pollToEdge a =>
    obtain ⟨lo, hi⟩ := transition_from_range wf curr
    rw [speedBounds_of_pollToEdge hw, unchanged]
    exact ⟨makeSpeed_nonpos lo _, makeSpeed_nonneg hi _⟩
  | edgeToNow b => exact speedBounds_around_zero_of_edgeToNow wf hw

end Sys2Proof.Proofs

/-! The estimate (rules R163 to R165). -/

namespace Sys2Proof.Proofs

open Sys2Proof.Machine Sys2Proof.Claims

theorem estimateSpeed_of_changed {prev curr : Measurement} (h : prev.step ≠ curr.step) (last : Word32)
    (cal : Calibration) : estimateSpeed last prev curr cal = calculateSpeed prev curr cal :=
  if_pos h

theorem estimateSpeed_of_unchanged {prev curr : Measurement} (h : prev.step = curr.step) (last : Word32)
    (cal : Calibration) :
    estimateSpeed last prev curr cal = clampSpeed last (speedBounds prev curr cal).1 (speedBounds prev curr cal).2 :=
  if_neg (not_not_intro h)

/-- Settles O45. -/
theorem mEstimateIsExactOrClampedIntoTheBounds : Obligations.MEstimateIsExactOrClampedIntoTheBounds := by
  intro last prev curr cal s hp hc
  refine ⟨fun changed => ⟨_, exec_mEstimate_of_good hp hc last cal s, ?_⟩,
    fun unchanged => ⟨_, _, _, exec_mEstimate_of_good hp hc last cal s, exec_mCalcBounds_of_good hp hc cal s, ?_⟩⟩
  · rw [exec_mCalcSpeed_of_good hp hc, estimateSpeed_of_changed changed]
  · rw [estimateSpeed_of_unchanged unchanged, clampSpeed_toInt]

/-! What an answer says of the command: its checks passed, and it is the only answer. -/

theorem good_iff_checks {m : MeasurementRecord} : Good m ↔ reservedDir m.dir = false ∧ validRecord m = true := by
  simp [Good, reservedDir_eq_not_wf, dirFieldWf, validRecord]

theorem raise_ne_answered {c : FaultCode} {r : Result} {s t : State} : raise c s ≠ .next (answered r t) := by
  intro h
  have responses := congrArg State.response ((raise_next_iff c s _).1 h)
  cases responses

theorem answered_inj {r r' : Result} {s : State} {o : Host.Outcome State Fault Refusal} (h : o = .next (answered r s))
    (h' : o = .next (answered r' s)) : r = r' := by
  cases congrArg State.response ((Host.Outcome.next.inj (h.symm.trans h') :))
  rfl

theorem good_of_mCalcBounds_answered {prev curr : MeasurementRecord} {cal : Calibration} {s : State} {r : Result}
    (h : exec (.mCalcBounds prev curr cal) s = .next (answered r s)) : Good prev ∧ Good curr := by
  simp only [exec, execMCalcBounds] at h
  split_ifs at h with reserved invalid
  · exact absurd h raise_ne_answered
  · exact absurd h raise_ne_answered
  · simp only [Bool.not_eq_true, Bool.or_eq_false_iff, Bool.not_eq_false'] at reserved invalid
    obtain ⟨prevDir, currDir⟩ := reserved
    obtain ⟨prevValid, currValid⟩ := invalid
    exact ⟨good_iff_checks.2 ⟨prevDir, prevValid⟩, good_iff_checks.2 ⟨currDir, currValid⟩⟩

/-- Settles O46: between ordered bounds, "at most `hi`, then at least `lo`" is within both. -/
theorem estimateLiesWithinOrderedBounds : Obligations.EstimateLiesWithinOrderedBounds := by
  intro last lo hi v prev curr cal s unchanged bounds estimate ordered
  obtain ⟨hp, hc⟩ := good_of_mCalcBounds_answered bounds
  obtain ⟨_, clampedOfUnchanged⟩ := mEstimateIsExactOrClampedIntoTheBounds last prev curr cal s hp hc
  obtain ⟨v', lo', hi', estimate', bounds', clamped⟩ := clampedOfUnchanged unchanged
  cases answered_inj bounds bounds'
  cases answered_inj estimate estimate'
  omega

end Sys2Proof.Proofs

/-! Leaving the Stopped regime (rules R203, R216). -/

namespace Sys2Proof.Proofs

open Sys2Proof.Machine Sys2Proof.Claims

@[simp] theorem fieldMeasurement_measurementField (m : Measurement) : fieldMeasurement (measurementField m) = m := by
  simp [fieldMeasurement, measurementField]

theorem good_measurementField {m : Measurement} (h : MeasurementValid m) : Good (measurementField m) :=
  good_iff_checks.2 ⟨reservedDir_directionField m.direction, by rwa [validRecord_iff, fieldMeasurement_measurementField]⟩

theorem exec_update_inv {m : MeasurementRecord} {s t : State} (good : Good m) (built : s.constructed = true)
    (h : exec (.update m) s = .next t) : t = answer .empty (updateWith (fieldMeasurement m) s) :=
  Host.Outcome.next.inj (h.symm.trans (exec_update_of_good good built))

/-- The regime after an update is that of the speed it computes (rules R30, R203). -/
theorem movingRegime_update_iff (m : Measurement) {s : State} (built : s.constructed = true) :
    movingRegime (answer .empty (updateWith m s)) = true ↔ updatedSpeed m s ≠ 0#32 := by
  simp [movingRegime, updateWith, built]

theorem updatedSpeed_in_time {m : Measurement} {s : State} (valid : MeasurementValid m)
    (inTime : m.sampleInstant.toNat - m.stepInstant.toNat < s.idleTimeout.toNat) :
    updatedSpeed m s = estimateSpeed s.lastKnownSpeed s.prev m s.cal := by
  rw [updatedSpeed, timeSince_toNat valid, if_neg inTime.not_ge]

/-- With the step unchanged a stopped encoder is estimated to stay stopped: 0 lies within the bounds (rule R162). -/
theorem estimateSpeed_stopped_of_unchanged {prev curr : Measurement} {cal : Calibration} (wf : CalWellFormed cal)
    (unchanged : prev.step = curr.step) : estimateSpeed 0#32 prev curr cal = 0#32 := by
  obtain ⟨lo, hi⟩ := zeroLiesInTheBoundsOfAnUnchangedStep prev curr cal wf unchanged
  rw [estimateSpeed_of_unchanged unchanged]
  apply BitVec.eq_of_toInt_eq
  rw [clampSpeed_toInt, BitVec.toInt_zero, min_eq_left hi, max_eq_right lo]

theorem updatedSpeed_of_stopped_ne_zero_iff {m : Measurement} {s : State} (valid : MeasurementValid m)
    (still : s.lastKnownSpeed = 0#32) (wf : CalWellFormed s.cal) :
    updatedSpeed m s ≠ 0#32 ↔ m.sampleInstant.toNat - m.stepInstant.toNat < s.idleTimeout.toNat ∧
      s.prev.step ≠ m.step ∧ calculateSpeed s.prev m s.cal ≠ 0#32 := by
  rcases Nat.lt_or_ge (m.sampleInstant.toNat - m.stepInstant.toNat) s.idleTimeout.toNat with inTime | late
  · rw [updatedSpeed_in_time valid inTime]
    by_cases unchanged : s.prev.step = m.step
    · simp [still, estimateSpeed_stopped_of_unchanged wf unchanged, unchanged]
    · simp [estimateSpeed_of_changed unchanged, inTime, unchanged]
  · simp [updatedSpeed_of_idle valid late, late]

/-- The exact speed as M_CALC_SPEED answers it. -/
theorem calculateSpeed_ne_zero_iff_answered {prev curr : MeasurementRecord} (hp : Good prev) (hc : Good curr)
    (cal : Calibration) (s : State) :
    calculateSpeed (fieldMeasurement prev) (fieldMeasurement curr) cal ≠ 0#32 ↔
      ∃ v, v ≠ 0#32 ∧ exec (.mCalcSpeed prev curr cal) s = .next (answered (.speed v) s) := by
  have answers := exec_mCalcSpeed_of_good hp hc cal s
  constructor
  · exact fun nonzero => ⟨_, nonzero, answers⟩
  · rintro ⟨v, nonzero, answers'⟩
    rwa [Result.speed.inj (answered_inj answers answers')]

/-- Settles O54: the update stores the speed that `updatedSpeed` computes, and from a stopped encoder that is 0 or the exact
speed. -/
theorem stoppedIsLeftOnlyByANonzeroExactSpeed : Obligations.StoppedIsLeftOnlyByANonzeroExactSpeed := by
  intro m s t stopped validPrev wf good update
  obtain ⟨built, still⟩ : s.constructed = true ∧ s.lastKnownSpeed = 0#32 := by simpa [stoppedRegime] using stopped
  obtain rfl := exec_update_inv good built update
  rw [movingRegime_update_iff _ built, updatedSpeed_of_stopped_ne_zero_iff good.2 still wf,
    ← calculateSpeed_ne_zero_iff_answered (good_measurementField validPrev) good, fieldMeasurement_measurementField]
  exact Iff.rfl

end Sys2Proof.Proofs

/-! The position after a window B clamp (rules R159, R160, R188, R207, R209). -/

namespace Sys2Proof.Proofs

open Sys2Proof.Machine Sys2Proof.Claims

theorem measurementOf_eq_fieldMeasurement (m : MeasurementRecord) : measurementOf m = fieldMeasurement m := by
  simp [measurementOf, fieldMeasurement, fieldDirection, BitVec.getLsbD, Nat.testBit_zero]

/-- After an update the position is as far from the transition as the new speed covers in the time since it (rules R203,
R207). -/
theorem positionOf_update_sub_transition (m : Measurement) (s : State) :
    positionOf (answer .empty (updateWith m s)) - transition m s.cal = mulSpeed (updatedSpeed m s) (timeSince m) :=
  add_sub_cancel_left _ _

theorem clampSpeed_between {lo hi : Word32} (ordered : lo.toInt ≤ hi.toInt) (v : Word32) :
    lo.toInt ≤ (clampSpeed v lo hi).toInt ∧ (clampSpeed v lo hi).toInt ≤ hi.toInt := by
  rw [clampSpeed_toInt]
  omega

/-- An estimate clamped over window B covers, in the time since the edge, a displacement that stays in the range of the step:
the window is that time, and the bounds are the speeds to the two ends (rules R160, R188). -/
theorem mulSpeed_estimate_in_range {prev curr : Measurement} {cal : Calibration} {b : Nat} (wf : CalWellFormed cal)
    (unchanged : prev.step = curr.step) (window : selectWindow prev curr = .edgeToNow b) (last : Word32) :
    (substepSub (lowerBound curr.step cal) (transition curr cal)).toInt ≤
        (mulSpeed (estimateSpeed last prev curr cal) (timeSince curr)).toInt ∧
      (mulSpeed (estimateSpeed last prev curr cal) (timeSince curr)).toInt ≤
        (substepSub (upperBound curr.step cal) (transition curr cal)).toInt := by
  obtain ⟨behind, ahead⟩ := range_from_transition wf curr
  obtain rfl := timeSince_of_edgeToNow window
  have ordered := makeSpeed_mono (behind.trans ahead) (timeSince curr).toNat
  obtain ⟨atLeast, atMost⟩ := clampSpeed_between ordered last
  rw [estimateSpeed_of_unchanged unchanged, speedBounds_of_edgeToNow window]
  exact mulSpeed_between_of_clamped behind ahead atLeast atMost

/-- Settles O55: the position is the transition plus what the clamped estimate covers, and the direction says which end of the
range the transition is. -/
theorem positionStaysInTheStepAfterAWindowBClamp : Obligations.PositionStaysInTheStepAfterAWindowBClamp := by
  intro m s t p q b built validPrev wf good unchanged window inTime update position transitionAnswer
  obtain rfl := exec_update_inv good built update
  obtain rfl := Result.position.inj (answered_inj
    (exec_position_constructed (s := answer .empty (updateWith (fieldMeasurement m) s)) built) position)
  obtain rfl := Result.substep.inj (answered_inj (exec_mTransition_of_good good s.cal s) transitionAnswer)
  rw [measurementOf_eq_fieldMeasurement] at window
  have inRange := mulSpeed_estimate_in_range wf unchanged window s.lastKnownSpeed
  rw [← updatedSpeed_in_time good.2 inTime, ← positionOf_update_sub_transition] at inRange
  refine ⟨fun clockwise => ?_, fun counterClockwise => ?_⟩
  · have entered := transition_of_clockwise (m := fieldMeasurement m) (fieldDirection_of_zero clockwise) s.cal
    rw [entered, substepSub, substepSub, sub_self, upperBound_sub_lowerBound_toInt] at inRange
    rwa [entered]
  · have entered :=
      transition_of_counterClockwise (m := fieldMeasurement m) (fieldDirection_of_one counterClockwise) s.cal
    rw [entered, substepSub, substepSub, sub_self, lowerBound_sub_upperBound_toInt wf] at inRange
    rwa [entered]

end Sys2Proof.Proofs

/-! SPEED_NEW and SPEED_MUL on numbers (rules R184 to R188): the quotient is clamped exactly beyond the threshold of rule
R185 (f), and below it a speed gives back its delta but for the two truncations. -/

namespace Sys2Proof.Proofs

open Sys2Proof.Machine Sys2Proof.Claims

theorem clampS32_eq_max_min (q : Int) : clampS32 q = max (-2 ^ 31) (min (2 ^ 31 - 1) q) := by
  unfold clampS32 Config.speedMin Config.speedMax
  omega

theorem clampS32_ne_self_iff {q : Int} : clampS32 q ≠ q ↔ 2 ^ 31 ≤ q ∨ q < -2 ^ 31 := by
  rw [clampS32_eq_max_min]
  omega

/-- Settles O34, by the kinds of duration. -/
theorem speedNewIsTheClampedQuotient : Obligations.SpeedNewIsTheClampedQuotient := by
  refine ⟨fun delta duration s => ⟨_, exec_speedNew delta duration s, fun unfit => ?_, fun zero forward => ?_,
    fun zero backward => ?_, fun _ still => makeSpeed_of_no_delta still _, fun pos fit => ?_⟩,
    fun _ _ negative => makeSpeed_unfit_toInt (.inl negative)⟩
  · exact makeSpeed_unfit_toInt (.inr (by exact_mod_cast unfit))
  · rw [zero, Nat.cast_zero, makeSpeed_zero_toInt, if_pos forward]
  · rw [zero, Nat.cast_zero, makeSpeed_zero_toInt, if_neg backward.not_gt, if_pos backward]
  · rw [makeSpeed_fit_toInt (by exact_mod_cast pos) (by exact_mod_cast fit), clampS32_eq_max_min]

/-! Where `Speed::new` clamps (rule R185 (f)). -/

theorem quotient_of_nonpos {a : Int} (h : a ≤ 0) (t : Int) : (a * 2 ^ 20).tdiv t = -(-(a * 2 ^ 20) / t) := by
  rw [← Int.tdiv_eq_ediv_of_nonneg (by omega), Int.neg_tdiv, neg_neg]

theorem quotient_tooGreat_iff {a t : Int} (pos : 0 < t) :
    2 ^ 31 ≤ (a * 2 ^ 20).tdiv t ↔ 0 < a ∧ 2048 * t ≤ a := by
  rcases lt_or_ge a 0 with backward | forward
  · have opposite := Int.ediv_nonneg (show 0 ≤ -(a * 2 ^ 20) by omega) pos.le
    rw [quotient_of_nonpos backward.le]
    omega
  · rw [Int.tdiv_eq_ediv_of_nonneg (by omega), Int.le_ediv_iff_mul_le pos]
    omega

/-- A word's delta lies beyond the threshold only for durations below `2 ^ 20`, where each sub-step counts for at least 1 in
the quotient, so that truncation does not bring it back. -/
theorem quotient_tooSmall_iff {a t : Int} (pos : 0 < t) (least : -2 ^ 31 ≤ a) :
    (a * 2 ^ 20).tdiv t < -2 ^ 31 ↔ a < 0 ∧ 2048 * t < -a := by
  rcases lt_or_ge 0 a with forward | backward
  · have := Int.tdiv_nonneg (show 0 ≤ a * 2 ^ 20 by omega) pos.le
    omega
  · have beyond : 2 ^ 31 + 1 ≤ -(a * 2 ^ 20) / t ↔ (2 ^ 31 + 1) * t ≤ -(a * 2 ^ 20) := Int.le_ediv_iff_mul_le pos
    rw [quotient_of_nonpos backward]
    omega

theorem makeSpeed_ne_quotient_iff {a : Word32} {t : Int} (pos : 0 < t) (fit : t < 2 ^ 32) :
    (makeSpeed a t).toInt ≠ (a.toInt * 2 ^ 20).tdiv t ↔
      (0 < a.toInt ∧ 2048 * t ≤ a.toInt) ∨ (a.toInt < 0 ∧ 2048 * t < -a.toInt) := by
  rw [makeSpeed_fit_toInt pos fit, clampS32_ne_self_iff, quotient_tooGreat_iff pos,
    quotient_tooSmall_iff pos a.le_toInt]

theorem makeSpeed_eq_quotient {a : Word32} {t : Int} (pos : 0 < t) (fit : t < 2 ^ 32) (below : |a.toInt| < 2048 * t) :
    (makeSpeed a t).toInt = (a.toInt * 2 ^ 20).tdiv t := by
  obtain ⟨backward, forward⟩ := abs_lt.1 below
  by_contra clamped
  rcases (makeSpeed_ne_quotient_iff pos fit).1 clamped with ⟨_, beyond⟩ | ⟨_, beyond⟩ <;> omega

theorem toInt_neg_of_ne_least {a : Word32} (h : a.toInt ≠ -2 ^ 31) : (-a).toInt = -a.toInt :=
  BitVec.toInt_neg_of_ne_intMin fun least => h (by rw [least]; rfl)

/-- Below the threshold the opposite displacement is the opposite speed (rule R185 (b)). -/
theorem makeSpeed_neg {a : Word32} {t : Int} (pos : 0 < t) (fit : t < 2 ^ 32) (h : a.toInt ≠ -2 ^ 31)
    (below : |a.toInt| < 2048 * t) : (makeSpeed (-a) t).toInt = -(makeSpeed a t).toInt := by
  have opposite := toInt_neg_of_ne_least h
  have below' : |(-a).toInt| < 2048 * t := by rwa [opposite, abs_neg]
  rw [makeSpeed_eq_quotient pos fit below', makeSpeed_eq_quotient pos fit below, opposite, neg_mul, Int.neg_tdiv]

/-- Settles O35, one lemma for each of (b) to (f). -/
theorem speedNewIsOddMonotoneAndSigned : Obligations.SpeedNewIsOddMonotoneAndSigned := fun _ _ t =>
  ⟨makeSpeed_neg, fun le => makeSpeed_mono le t,
    ⟨fun forward => makeSpeed_nonneg forward.le t, fun backward => makeSpeed_nonpos backward.le t⟩,
    fun still => makeSpeed_of_no_delta still t, makeSpeed_ne_quotient_iff⟩

/-! SPEED_MUL. -/

theorem exec_speedMul (v : Word32) (duration : Word64) (s : State) :
    exec (.speedMul v duration) s = .next (answered (.delta (mulSpeed v duration)) s) := rfl

theorem mulSpeed_toNat (v : Word32) (d : Word64) :
    ((mulSpeed v d).toNat : Int) = v.toInt * d.toNat / 2 ^ 20 % 2 ^ 32 := by
  rw [mulSpeed_eq_floor, BitVec.toNat_ofInt]
  exact Int.toNat_of_nonneg (Int.emod_nonneg _ (by decide))

/-- Settles O36: the wrap to 64 bits does not reach the 52 bits below the end of the slice. -/
theorem speedMulIsTheFloorOfTheDisplacement : Obligations.SpeedMulIsTheFloorOfTheDisplacement := by
  intro v t s
  refine ⟨_, exec_speedMul v t s, ?_, ?_⟩
  · rw [mulSpeed_toNat]
    omega
  · rw [mulSpeed_toNat, Int.fdiv_eq_ediv_of_nonneg _ (by decide)]

/-! There and back (rule R188). -/

/-- What truncating the quotient takes from the product is less than the duration. -/
theorem lt_makeSpeed_mul_add {delta : Word32} {t : Int} (pos : 0 < t) (fit : t < 2 ^ 32) (forward : 0 ≤ delta.toInt)
    (below : delta.toInt < 2048 * t) : delta.toInt * 2 ^ 20 < (makeSpeed delta t).toInt * t + t := by
  rw [makeSpeed_eq_quotient pos fit (by rwa [abs_of_nonneg forward]), Int.tdiv_eq_ediv_of_nonneg (by omega),
    ← add_one_mul]
  exact Int.lt_ediv_add_one_mul_self _ pos

/-- A displacement of a word's size is read back as it is, floored. -/
theorem mulSpeed_toInt_of_fits {v : Word32} {d : Word64} (lo : 0 ≤ v.toInt * d.toNat)
    (hi : v.toInt * d.toNat < 2 ^ 31 * 2 ^ 20) : (mulSpeed v d).toInt = v.toInt * d.toNat / 2 ^ 20 := by
  rw [mulSpeed_eq_floor]
  exact BitVec.toInt_ofInt_eq_self (by decide) (by omega) (by omega)

/-- Settles O37: the product is at most the delta and short of it by less than the duration, before it is floored. -/
theorem speedRoundTripLosesAtMostItsTruncation : Obligations.SpeedRoundTripLosesAtMostItsTruncation := by
  intro delta t pos fit forward below
  have atMost := makeSpeed_mul_le (t := t.toNat) forward
  have shortBy := lt_makeSpeed_mul_add (by exact_mod_cast pos) (by exact_mod_cast fit) forward below
  have nonneg := mul_nonneg (makeSpeed_nonneg forward t.toNat) (Int.natCast_nonneg t.toNat)
  have greatest := delta.toInt_lt
  rw [mulSpeed_toInt_of_fits nonneg (by omega)]
  omega

end Sys2Proof.Proofs

/-! The commands of the estimator (rules R200 to R208): what each does under the checks it makes, in the order of its
rule. -/

namespace Sys2Proof.Proofs

open Sys2Proof.Machine Sys2Proof.Claims

/-- The message of a command is read back from its opcode and its operand fields (rules R84, R90). -/
theorem decode_layout (i : Instr) : decode (BitVec.ofNat 8 (layout i).1 :: (layout i).2.1) = .instr i := by
  rw [← message_eq_cons]
  exact (decoderReadsTheSpecLayout i).2

theorem raise_eq_faulted (c : FaultCode) (s : State) : raise c s = .next (faulted c (faultNumber c) s) := by
  rw [raise, takeFault_eq_faulted]

theorem reservedDir_of_lt_two {dir : Byte} (h : dir.toNat < 2) : reservedDir dir = false := by
  rw [reservedDir_eq_not_wf, dirFieldWf, decide_eq_true h, Bool.not_true]

theorem validRecord_of_late {m : MeasurementRecord} (h : m.sampleInstant.toNat < m.stepInstant.toNat) :
    validRecord m = false :=
  decide_eq_false h.not_ge

/-! NEW and NEW_RAW (rules R200, R201). -/

section construction

variable {m : MeasurementRecord} {raw : RawRecord} {s : State} (cal : Calibration) (idle : Word64)

theorem exec_new_reserved (reserved : 2 ≤ m.dir.toNat) :
    exec (.new cal idle m) s = .next (faulted .illegalCommand 1 s) := by
  simp [exec, execNew, reservedDir_of_two_le reserved, raise_eq_faulted, faultNumber]

theorem exec_new_constructed (dir : m.dir.toNat < 2) (built : s.constructed = true) :
    exec (.new cal idle m) s = .next (faulted .alreadyConstructed 3 s) := by
  simp [exec, execNew, reservedDir_of_lt_two dir, built, raise_eq_faulted, faultNumber]

theorem exec_new_late (dir : m.dir.toNat < 2) (fresh : s.constructed = false)
    (late : m.sampleInstant.toNat < m.stepInstant.toNat) :
    exec (.new cal idle m) s = .next (faulted .badMeasurement 5 s) := by
  simp [exec, execNew, reservedDir_of_lt_two dir, fresh, validRecord_of_late late, raise_eq_faulted, faultNumber]

theorem exec_new_of_good (good : Good m) (fresh : s.constructed = false) :
    exec (.new cal idle m) s = .next (answer .empty (construct cal idle (fieldMeasurement m) s)) := by
  simp [exec, execNew, reservedDir_of_good good, fresh, validRecord_of_good good, reply]

theorem exec_newRaw_constructed (built : s.constructed = true) :
    exec (.newRaw cal idle raw) s = .next (faulted .alreadyConstructed 3 s) := by
  simp [exec, execNewRaw, built, raise_eq_faulted, faultNumber]

theorem exec_newRaw_zeroClock (fresh : s.constructed = false) (zero : raw.ticks.toNat = 0) :
    exec (.newRaw cal idle raw) s = .next (faulted .zeroClock 4 s) := by
  simp only [exec, execNewRaw, fresh, Bool.false_eq_true, if_false, if_pos zero, raise_eq_faulted, faultNumber]

theorem exec_newRaw_running (fresh : s.constructed = false) (running : raw.ticks.toNat ≠ 0) :
    exec (.newRaw cal idle raw) s = .next (answer .empty (construct cal idle (fromRaw raw) s)) := by
  simp only [exec, execNewRaw, fresh, Bool.false_eq_true, if_false, if_neg running, reply]

/-- Rule R201: the Measurement that M_FROM_RAW answers passes the checks of NEW. -/
theorem exec_newRaw_eq_new (fresh : s.constructed = false) (running : raw.ticks.toNat ≠ 0) :
    exec (.newRaw cal idle raw) s = exec (.new cal idle (measurementField (fromRaw raw))) s := by
  have good := good_measurementField (fromRaw_valid raw)
  rw [exec_newRaw_running cal idle fresh running, exec_new_of_good cal idle good fresh, fieldMeasurement_measurementField]

end construction

/-- Settles O47, check by check. -/
theorem newConstructsOnce : Obligations.NewConstructsOnce := by
  intro cal idle m s
  refine ⟨decode_layout (.new cal idle m), exec_new_reserved cal idle, exec_new_constructed cal idle,
    exec_new_late cal idle, fun good fresh => ?_⟩
  rw [measurementOf_eq_fieldMeasurement]
  exact exec_new_of_good cal idle good fresh

/-- Settles O48, with the Measurement of `from_raw`. -/
theorem newRawIsFromRawThenNew : Obligations.NewRawIsFromRawThenNew := fun cal idle raw s =>
  ⟨decode_layout (.newRaw cal idle raw), exec_newRaw_constructed cal idle, exec_newRaw_zeroClock cal idle,
    fun fresh running => ⟨fromRaw raw, exec_mFromRaw running s, exec_newRaw_eq_new cal idle fresh running,
      exec_newRaw_running cal idle fresh running⟩⟩

/-! UPDATE and UPDATE_RAW (rules R203, R204). -/

section update

variable {m : MeasurementRecord} {raw : RawRecord} {s : State}

theorem exec_update_reserved (reserved : 2 ≤ m.dir.toNat) :
    exec (.update m) s = .next (faulted .illegalCommand 1 s) := by
  simp [exec, execUpdate, reservedDir_of_two_le reserved, raise_eq_faulted, faultNumber]

theorem exec_update_unconstructed (dir : m.dir.toNat < 2) (fresh : s.constructed = false) :
    exec (.update m) s = .next (faulted .notConstructed 2 s) := by
  simp [exec, execUpdate, reservedDir_of_lt_two dir, fresh, raise_eq_faulted, faultNumber]

theorem exec_update_late (dir : m.dir.toNat < 2) (built : s.constructed = true)
    (late : m.sampleInstant.toNat < m.stepInstant.toNat) :
    exec (.update m) s = .next (faulted .badMeasurement 5 s) := by
  simp [exec, execUpdate, reservedDir_of_lt_two dir, built, validRecord_of_late late, raise_eq_faulted, faultNumber]

theorem exec_updateRaw_unconstructed (fresh : s.constructed = false) :
    exec (.updateRaw raw) s = .next (faulted .notConstructed 2 s) := by
  simp [exec, execUpdateRaw, fresh, raise_eq_faulted, faultNumber]

theorem exec_updateRaw_zeroClock (built : s.constructed = true) (zero : raw.ticks.toNat = 0) :
    exec (.updateRaw raw) s = .next (faulted .zeroClock 4 s) := by
  simp only [exec, execUpdateRaw, built, Bool.not_true, Bool.false_eq_true, if_false, if_pos zero, raise_eq_faulted,
    faultNumber]

theorem exec_updateRaw_running (built : s.constructed = true) (running : raw.ticks.toNat ≠ 0) :
    exec (.updateRaw raw) s = .next (answer .empty (updateWith (fromRaw raw) s)) := by
  simp only [exec, execUpdateRaw, built, Bool.not_true, Bool.false_eq_true, if_false, if_neg running, reply]

/-- Rule R204: the Measurement that M_FROM_RAW answers passes the checks of UPDATE. -/
theorem exec_updateRaw_eq_update (built : s.constructed = true) (running : raw.ticks.toNat ≠ 0) :
    exec (.updateRaw raw) s = exec (.update (measurementField (fromRaw raw))) s := by
  rw [exec_updateRaw_running built running, exec_update_of_good (good_measurementField (fromRaw_valid raw)) built,
    fieldMeasurement_measurementField]

/-- An in-time update computes the speed that M_ESTIMATE answers for the old speed and the old Measurement (rule
R203). -/
theorem exec_mEstimate_of_update (good : Good m) (validPrev : MeasurementValid s.prev)
    (inTime : m.sampleInstant.toNat - m.stepInstant.toNat < s.idleTimeout.toNat) :
    exec (.mEstimate s.lastKnownSpeed (measurementField s.prev) m s.cal) s =
      .next (answered (.speed (updatedSpeed (fieldMeasurement m) s)) s) := by
  rw [exec_mEstimate_of_good (good_measurementField validPrev) good, fieldMeasurement_measurementField,
    updatedSpeed_in_time (m := fieldMeasurement m) good.2 inTime]

end update

/-- Settles O49: the faults check by check, then the two sides of the idle timeout. -/
theorem updateReplacesSpeedAndMeasurement : Obligations.UpdateReplacesSpeedAndMeasurement := by
  intro m s
  rw [measurementOf_eq_fieldMeasurement]
  refine ⟨decode_layout (.update m), exec_update_reserved, exec_update_unconstructed, exec_update_late,
    fun good built idle => ?_, fun good built validPrev inTime => ?_⟩
  · rw [exec_update_of_good good built, updateWith, updatedSpeed_of_idle (m := fieldMeasurement m) good.2 idle]
    rfl
  · exact ⟨_, exec_mEstimate_of_update good validPrev inTime, exec_update_of_good good built⟩

/-- Settles O50, with the Measurement of `from_raw`. -/
theorem updateRawIsFromRawThenUpdate : Obligations.UpdateRawIsFromRawThenUpdate := fun raw s =>
  ⟨decode_layout (.updateRaw raw), exec_updateRaw_unconstructed, exec_updateRaw_zeroClock,
    fun built running => ⟨fromRaw raw, updatedSpeed (fromRaw raw) s, exec_mFromRaw running s,
      exec_updateRaw_eq_update built running, exec_updateRaw_running built running⟩⟩

/-! The queries SPEED, POSITION and STEPS (rules R206 to R208). -/

section queries

variable {s : State}

theorem exec_steps_constructed (built : s.constructed = true) :
    exec .steps s = .next (answer (.step s.prev.step) s) := by
  simp [exec, execSteps, built, reply]

theorem exec_speed_unconstructed (fresh : s.constructed = false) :
    exec .speed s = .next (faulted .notConstructed 2 s) := by
  simp [exec, execSpeed, fresh, raise_eq_faulted, faultNumber]

theorem exec_position_unconstructed (fresh : s.constructed = false) :
    exec .position s = .next (faulted .notConstructed 2 s) := by
  simp [exec, execPosition, fresh, raise_eq_faulted, faultNumber]

theorem exec_steps_unconstructed (fresh : s.constructed = false) :
    exec .steps s = .next (faulted .notConstructed 2 s) := by
  simp [exec, execSteps, fresh, raise_eq_faulted, faultNumber]

end queries

/-- Settles O51. -/
theorem speedAndStepsAnswerTheRegisters : Obligations.SpeedAndStepsAnswerTheRegisters := fun _ =>
  ⟨decode_layout .speed, decode_layout .steps,
    fun built => ⟨exec_speed_constructed built, exec_steps_constructed built⟩,
    fun fresh => ⟨exec_speed_unconstructed fresh, exec_steps_unconstructed fresh⟩⟩

/-- Settles O52: the four commands answer the parts of the sum that POSITION makes. -/
theorem positionIsTransitionPlusDisplacement : Obligations.PositionIsTransitionPlusDisplacement := by
  intro s
  refine ⟨decode_layout .position, fun built validPrev => ?_, exec_position_unconstructed⟩
  have good := good_measurementField validPrev
  refine ⟨_, _, _, _, exec_position_constructed built, exec_mTransition_of_good good s.cal s,
    exec_mTimeSince_of_good good s, exec_speedMul _ _ s, ?_⟩
  rw [fieldMeasurement_measurementField]
  exact exec_ssAdd _ _ s

end Sys2Proof.Proofs

/-! What an update depends on (rule R205): the registers, and neither `FAULTS` nor the port. -/

namespace Sys2Proof.Proofs

open Sys2Proof.Machine Sys2Proof.Claims

/-- Two states with the same registers, but for `FAULTS`. -/
def RegistersAgree (s t : State) : Prop :=
  t.cal = s.cal ∧ t.idleTimeout = s.idleTimeout ∧ t.lastKnownSpeed = s.lastKnownSpeed ∧ t.prev = s.prev ∧
    t.constructed = s.constructed

/-- A response writes no register but `FAULTS` (rules R85, R236). -/
theorem registersAgree_respond (r : Response) (s : State) : RegistersAgree s (respond r s) := by
  cases r <;> exact ⟨rfl, rfl, rfl, rfl, rfl⟩

section agreeing

variable {s t : State}

theorem updatedSpeed_of_registersAgree (h : RegistersAgree s t) (m : Measurement) :
    updatedSpeed m t = updatedSpeed m s := by
  obtain ⟨cal, idle, speed, prev, _⟩ := h
  rw [updatedSpeed, updatedSpeed, cal, idle, speed, prev]

theorem registersAgree_updateWith (h : RegistersAgree s t) (m : Measurement) :
    RegistersAgree (updateWith m s) (updateWith m t) := by
  have ⟨cal, idle, _, _, built⟩ := h
  exact ⟨cal, idle, updatedSpeed_of_registersAgree h m, rfl, built⟩

/-- From agreeing registers UPDATE makes the same checks, so it takes the same fault or makes the same update. -/
theorem exec_update_of_registersAgree (h : RegistersAgree s t) (m : MeasurementRecord) :
    ∃ (r : Response) (s' t' : State), RegistersAgree s' t' ∧ exec (.update m) s = .next (respond r s') ∧
      exec (.update m) t = .next (respond r t') := by
  have ⟨_, _, _, _, built⟩ := h
  simp only [exec, execUpdate, built]
  split_ifs
  · exact ⟨.fault .illegalCommand, s, t, h, rfl, rfl⟩
  · exact ⟨.fault .notConstructed, s, t, h, rfl, rfl⟩
  · exact ⟨.fault .badMeasurement, s, t, h, rfl, rfl⟩
  · exact ⟨.ok .empty, _, _, registersAgree_updateWith h (fieldMeasurement m), rfl, rfl⟩

end agreeing

theorem registersAgree_respond_respond {s t : State} (h : RegistersAgree s t) (r : Response) :
    RegistersAgree (respond r s) (respond r t) := by
  cases r <;> exact h

/-- Settles O20: a function-unit command only responds, which leaves the registers an update reads. -/
theorem updateIgnoresFunctionUnitCommandsBefore : Obligations.UpdateIgnoresFunctionUnitCommandsBefore := by
  intro i m s s₁ t t₁ unit first update update₁
  obtain ⟨r, responds⟩ := exec_functionUnit_respondsAlike unit
  cases (responds s).symm.trans first
  obtain ⟨r', s', s₁', agree, outcome, outcome₁⟩ := exec_update_of_registersAgree (registersAgree_respond r s) m
  cases outcome.symm.trans update
  cases outcome₁.symm.trans update₁
  obtain ⟨cal, idle, speed, prev, built⟩ := registersAgree_respond_respond agree r'
  exact ⟨cal, idle, speed, prev, built, by rw [respond_response, respond_response]⟩

end Sys2Proof.Proofs

/-! Faults (rules R89, R232 to R237): one lemma for each cause, over the commands that its rule lists, and one for the
commands that meet none. -/

namespace Sys2Proof.Proofs

open Sys2Proof.Machine Sys2Proof.Claims

/-- The groups of rule R90. -/
theorem constructs_or_readsEstimator_or_functionUnit (i : Instr) :
    constructs i ∨ readsEstimator i ∨ functionUnit i := by
  unfold functionUnit
  tauto

/-! The function units that take Measurement records: the checks of rule R172, over all the records of a command. -/

/-- The checks of rule R172 on these records, then this answer. -/
def checkRecords (ms : List MeasurementRecord) (v : Result) (s : State) : Host.Outcome State Fault Refusal :=
  if ms.any (reservedDir ·.dir) then raise .illegalCommand s
  else if ms.any (!validRecord ·) then raise .badMeasurement s
  else reply v s

section records

variable {ms : List MeasurementRecord} {m : MeasurementRecord} {s : State} (v : Result)

theorem checkRecords_reserved (mem : m ∈ ms) (reserved : 2 ≤ m.dir.toNat) :
    checkRecords ms v s = .next (faulted .illegalCommand 1 s) :=
  (if_pos (List.any_eq_true.2 ⟨m, mem, reservedDir_of_two_le reserved⟩)).trans (raise_eq_faulted _ s)

theorem no_reserved_record (dirs : ∀ m ∈ ms, m.dir.toNat < 2) : ¬ ms.any (reservedDir ·.dir) = true := by
  intro reserved
  obtain ⟨m, mem, hm⟩ := List.any_eq_true.1 reserved
  simp [reservedDir_of_lt_two (dirs m mem)] at hm

theorem checkRecords_late (dirs : ∀ m ∈ ms, m.dir.toNat < 2) (mem : m ∈ ms)
    (late : m.sampleInstant.toNat < m.stepInstant.toNat) :
    checkRecords ms v s = .next (faulted .badMeasurement 5 s) := by
  have invalid : ms.any (!validRecord ·) = true := List.any_eq_true.2 ⟨m, mem, by simp [validRecord_of_late late]⟩
  rw [checkRecords, if_neg (no_reserved_record dirs), if_pos invalid, raise_eq_faulted, faultNumber]

end records

/-- A function unit that takes Measurement records checks them, and nothing else, before it answers. -/
theorem exec_eq_checkRecords {i : Instr} (unit : functionUnit i) (takes : measurementsOf i ≠ []) (s : State) :
    ∃ v, exec i s = checkRecords (measurementsOf i) v s := by
  obtain ⟨notReads, notConstructs⟩ := unit
  cases i with
  | new cal idle m => exact absurd (.inl ⟨cal, idle, m, rfl⟩) notConstructs
  | update m => exact absurd (.inl ⟨m, rfl⟩) notReads
  | mTransition m cal =>
    exact ⟨.substep (transition (fieldMeasurement m) cal), by simp [exec, execMTransition, checkRecords, measurementsOf]⟩
  | mCalcSpeed prev curr cal =>
    exact ⟨.speed (calculateSpeed (fieldMeasurement prev) (fieldMeasurement curr) cal),
      by simp [exec, execMCalcSpeed, checkRecords, measurementsOf]⟩
  | mCalcBounds prev curr cal =>
    exact ⟨.bounds (speedBounds (fieldMeasurement prev) (fieldMeasurement curr) cal).1
        (speedBounds (fieldMeasurement prev) (fieldMeasurement curr) cal).2,
      by simp [exec, execMCalcBounds, checkRecords, measurementsOf]⟩
  | mEstimate last prev curr cal =>
    exact ⟨.speed (estimateSpeed last (fieldMeasurement prev) (fieldMeasurement curr) cal),
      by simp [exec, execMEstimate, checkRecords, measurementsOf]⟩
  | mTimeSince m =>
    exact ⟨.duration (timeSince (fieldMeasurement m)), by simp [exec, execMTimeSince, checkRecords, measurementsOf]⟩
  | newRaw | updateRaw | speed | position | steps | stepLower | stepUpper | stepRange | stepComp | ssAdd | ssSub | ddDecode
  | ddEncode | dirInvert | speedNew | speedMul | mFromRaw => exact absurd rfl takes

/-! The causes, each with the fault it raises. -/

section causes

variable {i : Instr} {m : MeasurementRecord} {s : State}

theorem dir_mem_directionsOf (mem : m ∈ measurementsOf i) : m.dir ∈ directionsOf i := by
  unfold directionsOf
  split
  · cases mem
  · cases mem
  · exact List.mem_map_of_mem mem

theorem dir_lt_two_of_not_causeIllegal (legal : ¬ causeIllegal i) (mem : m ∈ measurementsOf i) : m.dir.toNat < 2 :=
  not_le.1 fun reserved => legal ⟨m.dir, dir_mem_directionsOf mem, reserved⟩

theorem good_of_no_cause (legal : ¬ causeIllegal i) (ordered : ¬ causeBadMeasurement i) (mem : m ∈ measurementsOf i) :
    Good m :=
  ⟨dir_lt_two_of_not_causeIllegal legal mem, not_lt.1 fun late => ordered ⟨m, mem, late⟩⟩

theorem exec_of_reserved_record (mem : m ∈ measurementsOf i) (reserved : 2 ≤ m.dir.toNat) :
    exec i s = .next (faulted .illegalCommand 1 s) := by
  rcases constructs_or_readsEstimator_or_functionUnit i with
    (⟨cal, idle, m', rfl⟩ | ⟨_, _, _, rfl⟩) | (⟨m', rfl⟩ | ⟨_, rfl⟩ | rfl | rfl | rfl) | unit
  · cases List.mem_singleton.1 mem
    exact exec_new_reserved cal idle reserved
  · cases mem
  · cases List.mem_singleton.1 mem
    exact exec_update_reserved reserved
  · cases mem
  · cases mem
  · cases mem
  · cases mem
  · obtain ⟨v, checks⟩ := exec_eq_checkRecords unit (List.ne_nil_of_mem mem) s
    rw [checks, checkRecords_reserved v mem reserved]

/-- Rule R89: a Direction field stands alone in DD_ENCODE and DIR_INVERT, and in a Measurement record elsewhere. -/
theorem exec_of_causeIllegal (illegal : causeIllegal i) : exec i s = .next (faulted .illegalCommand 1 s) := by
  obtain ⟨dir, mem, reserved⟩ := illegal
  unfold directionsOf at mem
  split at mem
  case h_1 dir' k =>
    cases List.mem_singleton.1 mem
    exact exec_ddEncode_reserved reserved k s
  case h_2 dir' =>
    cases List.mem_singleton.1 mem
    exact exec_dirInvert_reserved reserved s
  case h_3 =>
    obtain ⟨m, memRecord, rfl⟩ := List.mem_map.1 mem
    exact exec_of_reserved_record memRecord reserved

/-- Rule R232. -/
theorem exec_of_notConstructed (legal : ¬ causeIllegal i) (reads : readsEstimator i) (fresh : s.constructed = false) :
    exec i s = .next (faulted .notConstructed 2 s) := by
  rcases reads with ⟨m, rfl⟩ | ⟨raw, rfl⟩ | rfl | rfl | rfl
  · exact exec_update_unconstructed (dir_lt_two_of_not_causeIllegal legal (List.mem_singleton_self m)) fresh
  · exact exec_updateRaw_unconstructed fresh
  · exact exec_speed_unconstructed fresh
  · exact exec_position_unconstructed fresh
  · exact exec_steps_unconstructed fresh

/-- Rule R233. -/
theorem exec_of_alreadyConstructed (legal : ¬ causeIllegal i) (builds : constructs i) (built : s.constructed = true) :
    exec i s = .next (faulted .alreadyConstructed 3 s) := by
  rcases builds with ⟨cal, idle, m, rfl⟩ | ⟨cal, idle, raw, rfl⟩
  · exact exec_new_constructed cal idle (dir_lt_two_of_not_causeIllegal legal (List.mem_singleton_self m)) built
  · exact exec_newRaw_constructed cal idle built

theorem constructed_of_readsEstimator (reads : readsEstimator i) (started : ¬ (readsEstimator i ∧ s.constructed = false)) :
    s.constructed = true :=
  eq_true_of_ne_false fun fresh => started ⟨reads, fresh⟩

theorem unconstructed_of_constructs (builds : constructs i) (first : ¬ (constructs i ∧ s.constructed = true)) :
    s.constructed = false :=
  eq_false_of_ne_true fun built => first ⟨builds, built⟩

/-- Rule R234. -/
theorem exec_of_causeZeroClock (started : ¬ (readsEstimator i ∧ s.constructed = false))
    (first : ¬ (constructs i ∧ s.constructed = true)) (zeroClock : causeZeroClock i) :
    exec i s = .next (faulted .zeroClock 4 s) := by
  obtain ⟨ticks, field, zero⟩ := zeroClock
  unfold ticksOf at field
  split at field <;> cases field
  case h_1 cal idle raw =>
    exact exec_newRaw_zeroClock cal idle (unconstructed_of_constructs (.inr ⟨cal, idle, raw, rfl⟩) first) zero
  case h_2 raw => exact exec_updateRaw_zeroClock (constructed_of_readsEstimator (.inr (.inl ⟨raw, rfl⟩)) started) zero
  case h_3 ddRaw => exact exec_ddDecode_zeroClock zero ddRaw s
  case h_4 raw => exact exec_mFromRaw_zeroClock zero s

/-- Rule R235. -/
theorem exec_of_causeBadMeasurement (legal : ¬ causeIllegal i) (started : ¬ (readsEstimator i ∧ s.constructed = false))
    (first : ¬ (constructs i ∧ s.constructed = true)) (badMeasurement : causeBadMeasurement i) :
    exec i s = .next (faulted .badMeasurement 5 s) := by
  obtain ⟨m, mem, late⟩ := badMeasurement
  have dir := dir_lt_two_of_not_causeIllegal legal mem
  rcases constructs_or_readsEstimator_or_functionUnit i with builds | reads | unit
  · have fresh := unconstructed_of_constructs builds first
    rcases builds with ⟨cal, idle, m', rfl⟩ | ⟨_, _, _, rfl⟩
    · cases List.mem_singleton.1 mem
      exact exec_new_late cal idle dir fresh late
    · cases mem
  · have built := constructed_of_readsEstimator reads started
    rcases reads with ⟨m', rfl⟩ | ⟨_, rfl⟩ | rfl | rfl | rfl
    · cases List.mem_singleton.1 mem
      exact exec_update_late dir built late
    · cases mem
    · cases mem
    · cases mem
    · cases mem
  · obtain ⟨v, checks⟩ := exec_eq_checkRecords unit (List.ne_nil_of_mem mem) s
    rw [checks, checkRecords_late v (fun _ => dir_lt_two_of_not_causeIllegal legal) mem late]

/-- Rules R85, R237: a command that meets no cause answers, whatever registers it writes. -/
theorem exec_of_no_cause (legal : ¬ causeIllegal i) (started : ¬ (readsEstimator i ∧ s.constructed = false))
    (first : ¬ (constructs i ∧ s.constructed = true)) (running : ¬ causeZeroClock i) (ordered : ¬ causeBadMeasurement i) :
    ∃ (r : Result) (t : State), exec i s = .next t ∧ t.response = some (.ok r) ∧ t.faults = s.faults := by
  have good : ∀ m ∈ measurementsOf i, Good m := fun _ => good_of_no_cause legal ordered
  have dirs : ∀ dir ∈ directionsOf i, dir.toNat < 2 := fun dir mem => not_le.1 fun reserved => legal ⟨dir, mem, reserved⟩
  have ticking : ∀ ticks, ticksOf i = some ticks → ticks.toNat ≠ 0 := fun ticks field zero => running ⟨ticks, field, zero⟩
  have built := fun reads => constructed_of_readsEstimator reads started
  have fresh := fun builds => unconstructed_of_constructs builds first
  cases i with
  | new cal idle m =>
    exact ⟨_, _, exec_new_of_good cal idle (good m (.head _)) (fresh (.inl ⟨cal, idle, m, rfl⟩)), rfl, rfl⟩
  | newRaw cal idle raw =>
    exact ⟨_, _, exec_newRaw_running cal idle (fresh (.inr ⟨cal, idle, raw, rfl⟩)) (ticking _ rfl), rfl, rfl⟩
  | update m => exact ⟨_, _, exec_update_of_good (good m (.head _)) (built (.inl ⟨m, rfl⟩)), rfl, rfl⟩
  | updateRaw raw => exact ⟨_, _, exec_updateRaw_running (built (.inr (.inl ⟨raw, rfl⟩))) (ticking _ rfl), rfl, rfl⟩
  | speed => exact ⟨_, _, exec_speed_constructed (built (.inr (.inr (.inl rfl)))), rfl, rfl⟩
  | position => exact ⟨_, _, exec_position_constructed (built (.inr (.inr (.inr (.inl rfl))))), rfl, rfl⟩
  | steps => exact ⟨_, _, exec_steps_constructed (built (.inr (.inr (.inr (.inr rfl))))), rfl, rfl⟩
  | stepLower | stepUpper | stepRange | stepComp | ssAdd | ssSub | speedNew | speedMul => exact ⟨_, _, rfl, rfl, rfl⟩
  | ddDecode ddRaw ticks => exact ⟨_, _, exec_ddDecode (ticking ticks rfl) ddRaw s, rfl, rfl⟩
  | ddEncode dir k =>
    obtain ⟨d, rfl⟩ := exists_directionField (dirs dir (.head _))
    exact ⟨_, _, exec_ddEncode_directionField d k s, rfl, rfl⟩
  | dirInvert dir =>
    obtain ⟨d, rfl⟩ := exists_directionField (dirs dir (.head _))
    exact ⟨_, _, exec_dirInvert_directionField d s, rfl, rfl⟩
  | mTransition m cal => exact ⟨_, _, exec_mTransition_of_good (good m (.head _)) cal s, rfl, rfl⟩
  | mCalcSpeed prev curr cal =>
    exact ⟨_, _, exec_mCalcSpeed_of_good (good prev (.head _)) (good curr (.tail _ (.head _))) cal s, rfl, rfl⟩
  | mCalcBounds prev curr cal =>
    exact ⟨_, _, exec_mCalcBounds_of_good (good prev (.head _)) (good curr (.tail _ (.head _))) cal s, rfl, rfl⟩
  | mEstimate last prev curr cal =>
    exact ⟨_, _, exec_mEstimate_of_good (good prev (.head _)) (good curr (.tail _ (.head _))) last cal s, rfl, rfl⟩
  | mFromRaw raw => exact ⟨_, _, exec_mFromRaw (ticking _ rfl) s, rfl, rfl⟩
  | mTimeSince m => exact ⟨_, _, exec_mTimeSince_of_good (good m (.head _)) s, rfl, rfl⟩

end causes

/-- Settles O15, one lemma for each cause, in the order of the codes. -/
theorem faultsAreRaisedExactlyByTheirCauses : Obligations.FaultsAreRaisedExactlyByTheirCauses := fun _ _ =>
  ⟨exec_of_causeIllegal, exec_of_notConstructed, exec_of_alreadyConstructed, fun legal started first =>
    ⟨exec_of_causeZeroClock started first, exec_of_causeBadMeasurement legal started first,
      exec_of_no_cause legal started first⟩⟩

end Sys2Proof.Proofs
